-- ==== Sys2Proof/Word.lean ====
section
/-! DEFINITION. The word types of the e8bit core: data bytes, instruction words, program indices. -/

namespace Sys2Proof

/-- A data value: an unsigned integer in 0..255 (R7). -/
abbrev Byte := BitVec 8

/-- An instruction word: 48 bits, bit 47 the most significant (R80). -/
abbrev Word := BitVec 48

/-- A program index: the program counter and every jump target (R23, R81). -/
abbrev Index := BitVec 16

/-- An SLP duration in milliseconds (R81, R205). -/
abbrev Millis := BitVec 32

end Sys2Proof
end

