-- ==== Sys2Proof/Config.lean ====
section
/-! DEFINITION. The parameters of R6, the kinds of host input, and the FREE VALUES: what the host answers when the state
lists no answer, and the host text the spec does not fix. A free value is an opaque constant: nothing can evaluate it. -/

namespace Sys2Proof

/-- One answer of the line reader, before it is classified: the text of a line with its terminator if it has one, or the
end of the input stream (R232). -/
inductive LineEvent where
  | text (chars : List Char)
  | endOfStream
  deriving DecidableEq, Repr, Inhabited

/-- A key event of the host's pending-key queue (R184, R233). -/
inductive KeyEvent where
  /-- A printable character key, with the character's byte. -/
  | printable (c : Byte)
  | enter
  | tab
  | backspace
  | escape
  /-- Any other key, an arrow key for one. -/
  | other
  deriving DecidableEq, Repr, Inhabited

namespace Config

/-- MEMSIZE: data memory cells (R6, R27). -/
def memSize : Nat := 256

/-- COLS: display columns (R6, R29). -/
def cols : Nat := 80

/-- ROWS: display rows (R6, R29). -/
def rows : Nat := 25

/-- MAXPROG: the largest program length (R6, D6). -/
def maxProg : Nat := 65535

/-- What a data memory cell nothing has written reads as (R27, D8). -/
def memBlank : Byte := 0x00#8

/-- What a display cell nothing has drawn holds: a space (R29). -/
def dispBlank : Byte := 0x20#8

/-- FREE VALUE (log 1): the line the host supplies at its n-th answer, when the state lists none (R230, R232). -/
opaque freeLine : Nat → LineEvent

/-- FREE VALUE (log 1, 3): the keys pending at the host's n-th answer, when the state lists none (R230, R233). -/
opaque freeKeys : Nat → List KeyEvent

/-- FREE VALUE (log 3): which of several pending keys the host reports at its n-th answer (C7, D13, I6). -/
opaque freeKeyPick : Nat → Nat

/-- FREE VALUE (log 1): the random byte of the host's n-th answer, when the state lists none (R234, I4). -/
opaque freeRandom : Nat → Byte

/-- FREE VALUE (log 18): the text the host writes for a newline (R180, I17). -/
opaque newlineText : List Char

/-- FREE VALUE (log 18): what the host writes for a character code of 0x80 or above (R182, I16). -/
opaque glyphText : Byte → List Char

/-- FREE VALUE (log 18): the bordered text block the host writes for the 25 rows of the display (R203, I13). -/
opaque borderedText : List (List Byte) → List Char

/-- FREE VALUE (log 18): what the host sends its terminal to clear it (R204, R229). -/
opaque clearText : List Char

end Config

end Sys2Proof
end

