-- ==== Sys2Proof/Syntax/Operand.lean ====
section
/-! DEFINITION. The operands of an instruction: registers, memory references and sources (R50, R91). -/

namespace Sys2Proof

/-- The five general registers (R20). -/
inductive Reg where
  | A | B | C | D | E
  deriving DecidableEq, Repr, Inhabited

/-- A memory reference: an absolute address or the current value of a register (R50). -/
inductive MemSrc where
  | abs (a : Byte)
  | ind (r : Reg)
  deriving DecidableEq, Repr, Inhabited

/-- A Source: the four addressing modes of the operand resolver (R50). -/
inductive Source where
  | reg (r : Reg)
  | lit (v : Byte)
  | mem (m : MemSrc)
  deriving DecidableEq, Repr, Inhabited

end Sys2Proof
end

