-- ==== Sys2Proof/Syntax.lean ====
section
/-! DEFINITION. The instructions: the tagged union of R91, one constructor per row of spec/opcode_table.json. -/

namespace Sys2Proof

/-- The 24 instructions (R86, R91). -/
inductive Instr where
  | mov (d : Reg) (src : Source)
  | store (r : Reg) (m : MemSrc)
  | add (d : Reg) (src : Source)
  | sub (d : Reg) (src : Source)
  | mul (d : Reg) (src : Source)
  | div (d : Reg) (src : Source)
  | mod (d : Reg) (src : Source)
  /-- The destination comes first (D9, log 8). -/
  | mulh (d a b : Reg)
  | jmp (t : Index)
  | jz (t : Index)
  | jnz (t : Index)
  | loop (t : Index) (r : Reg)
  /-- `nl` is true for a newline-terminated write (R180). -/
  | print (r : Reg) (nl : Bool)
  | printch (r : Reg) (nl : Bool)
  | input (r : Reg)
  | inkey (r : Reg)
  /-- `x` is the column, `y` the row, `c` the character (R200). -/
  | draw (x y c : Source)
  | slp (ms : Millis)
  | cmp (r : Reg) (src : Source)
  | rand (r : Reg)
  | cls
  | cts
  | render
  | halt
  deriving DecidableEq, Repr, Inhabited

end Sys2Proof
end

