-- ==== Sys2Proof/WellFormed.lean ====
section
/-! DEFINITION. Which instruction words are legal: the opcode map of R86 and the five checks of R87, written from those
rules and not from the decoder. A value of `Instr` cannot be ill formed: its operand types are those of R91, and every value of it
has a legal word. What can be ill formed is a word, a slot, a register code and a program. -/

namespace Sys2Proof

/-- The ten formats of R85. -/
inductive Format where
  | fn | fr | frn | frs | frm | frrr | fj | fjr | fsss | fd
  deriving DecidableEq, Repr

/-- One row of the opcode map (R86). -/
structure OpcodeRow where
  name : String
  op : Nat
  format : Format
  matchBits : Word
  mask : Word
  deriving DecidableEq, Repr

/-- The opcode map of R86, data movement and ALU rows 0x01 to 0x08. -/
def opcodeRowsLow : List OpcodeRow := [
  { name := "MOV", op := 0x01, format := .frs, matchBits := 0x010000000000#48, mask := 0xFF1FC00FFFFF#48 },
  { name := "STORE", op := 0x02, format := .frm, matchBits := 0x020000000000#48, mask := 0xFF1FC00FFFFF#48 },
  { name := "ADD", op := 0x03, format := .frs, matchBits := 0x030000000000#48, mask := 0xFF1FC00FFFFF#48 },
  { name := "SUB", op := 0x04, format := .frs, matchBits := 0x040000000000#48, mask := 0xFF1FC00FFFFF#48 },
  { name := "MUL", op := 0x05, format := .frs, matchBits := 0x050000000000#48, mask := 0xFF1FC00FFFFF#48 },
  { name := "DIV", op := 0x06, format := .frs, matchBits := 0x060000000000#48, mask := 0xFF1FC00FFFFF#48 },
  { name := "MOD", op := 0x07, format := .frs, matchBits := 0x070000000000#48, mask := 0xFF1FC00FFFFF#48 },
  { name := "MULH", op := 0x08, format := .frrr, matchBits := 0x080000000000#48, mask := 0xFF007FFFFFFF#48 }]

/-- The opcode map of R86, rows 0x09 to 0x10. -/
def opcodeRowsMid : List OpcodeRow := [
  { name := "JMP", op := 0x09, format := .fj, matchBits := 0x090000000000#48, mask := 0xFFFFFFFF0000#48 },
  { name := "JZ", op := 0x0A, format := .fj, matchBits := 0x0A0000000000#48, mask := 0xFFFFFFFF0000#48 },
  { name := "JNZ", op := 0x0B, format := .fj, matchBits := 0x0B0000000000#48, mask := 0xFFFFFFFF0000#48 },
  { name := "LOOP", op := 0x0C, format := .fjr, matchBits := 0x0C0000000000#48, mask := 0xFF1FFFFF0000#48 },
  { name := "PRINT", op := 0x0D, format := .frn, matchBits := 0x0D0000000000#48, mask := 0xFF1FBFFFFFFF#48 },
  { name := "PRINTCH", op := 0x0E, format := .frn, matchBits := 0x0E0000000000#48, mask := 0xFF1FBFFFFFFF#48 },
  { name := "INPUT", op := 0x0F, format := .fr, matchBits := 0x0F0000000000#48, mask := 0xFF1FFFFFFFFF#48 },
  { name := "INKEY", op := 0x10, format := .fr, matchBits := 0x100000000000#48, mask := 0xFF1FFFFFFFFF#48 }]

/-- The opcode map of R86, rows 0x11 to 0x18. -/
def opcodeRowsHigh : List OpcodeRow := [
  { name := "DRAW", op := 0x11, format := .fsss, matchBits := 0x110000000000#48, mask := 0xFFFFC0000000#48 },
  { name := "SLP", op := 0x12, format := .fd, matchBits := 0x120000000000#48, mask := 0xFFFF00000000#48 },
  { name := "CMP", op := 0x13, format := .frs, matchBits := 0x130000000000#48, mask := 0xFF1FC00FFFFF#48 },
  { name := "RAND", op := 0x14, format := .fr, matchBits := 0x140000000000#48, mask := 0xFF1FFFFFFFFF#48 },
  { name := "CLS", op := 0x15, format := .fn, matchBits := 0x150000000000#48, mask := 0xFFFFFFFFFFFF#48 },
  { name := "CTS", op := 0x16, format := .fn, matchBits := 0x160000000000#48, mask := 0xFFFFFFFFFFFF#48 },
  { name := "RENDER", op := 0x17, format := .fn, matchBits := 0x170000000000#48, mask := 0xFFFFFFFFFFFF#48 },
  { name := "HALT", op := 0x18, format := .fn, matchBits := 0x180000000000#48, mask := 0xFFFFFFFFFFFF#48 }]

/-- The opcode map of R86. -/
def opcodeRows : List OpcodeRow := opcodeRowsLow ++ opcodeRowsMid ++ opcodeRowsHigh

/-- A register code names a register: 0..4 (R83). -/
def legalRegCode (c : BitVec 3) : Bool := decide (c.toNat ≤ 4)

/-- The payload of a slot that holds a register code (R82: V[7:3] = 00000 and V[2:0] <= 4). -/
def legalRegPayload (v : Byte) : Bool := v.extractLsb' 3 5 == 0#5 && legalRegCode (v.extractLsb' 0 3)

/-- A source slot is legal (R82). -/
def legalSlot (sl : BitVec 10) : Bool :=
  let m := sl.extractLsb' 8 2
  let v := sl.extractLsb' 0 8
  if m = 0b00#2 || m = 0b11#2 then legalRegPayload v else true

/-- A MemSrc slot is legal: mode 10 or 11, and legal as a slot (R84). -/
def legalMemSlot (sl : BitVec 10) : Bool :=
  let m := sl.extractLsb' 8 2
  (m == 0b10#2 || m == 0b11#2) && legalSlot sl

/-- Checks 3 to 5 of R87: the register fields and slots the format uses are legal. -/
def legalOperands (f : Format) (w : Word) : Bool :=
  let r1 := legalRegCode (w.extractLsb' 37 3)
  match f with
  | .fn => true
  | .fr => r1
  | .frn => r1
  | .frs => r1 && legalSlot (w.extractLsb' 20 10)
  | .frm => r1 && legalMemSlot (w.extractLsb' 20 10)
  | .frrr => r1 && legalRegCode (w.extractLsb' 34 3) && legalRegCode (w.extractLsb' 31 3)
  | .fj => true
  | .fjr => r1
  | .fsss => legalSlot (w.extractLsb' 20 10) && legalSlot (w.extractLsb' 10 10) && legalSlot (w.extractLsb' 0 10)
  | .fd => true

/-- The word fits a row: its opcode is the row's, every must-be-zero bit is 0, and its operands are legal (R87). -/
def OpcodeRow.accepts (row : OpcodeRow) (w : Word) : Bool :=
  (w.extractLsb' 40 8).toNat == row.op && w &&& row.mask == row.matchBits && legalOperands row.format w

/-- A word is legal exactly when some row of the opcode map accepts it (R87). -/
def legalWord (w : Word) : Bool := opcodeRows.any (fun row => row.accepts w)

/-- A program the loader takes: at most 65535 words (R23, D6, I19). -/
def legalLength (prog : List Word) : Bool := decide (prog.length ≤ Config.maxProg)

end Sys2Proof
end

