-- ==== Sys2Proof/Decode.lean ====
section
/-! DEFINITION. The decoder, total on every 48-bit word and rejecting by name, and the encoder, both from the fields and
formats of R81 to R87 (the encoding is the spec's own: D1 to D5, log 7). -/

namespace Sys2Proof

/-- Why a word spells no instruction (R87). -/
inductive Reject where
  /-- The opcode is 0x00 or 0x19..0xFF (R87 check 1). -/
  | unassignedOpcode
  /-- A bit outside the format's fields is not 0 (R87 check 2). -/
  | nonzeroUnusedBit
  /-- A register field holds 5, 6 or 7 (R87 check 3). -/
  | badRegister
  /-- A slot that holds a register code has an illegal payload (R87 check 4). -/
  | badSlot
  /-- STORE's slot has mode 00 or 01 (R87 check 5). -/
  | slotNotMemory
  deriving DecidableEq, Repr

/-! ## The fields of the word (R81) -/

/-- OP, w[47:40]. -/
def opField (w : Word) : BitVec 8 := w.extractLsb' 40 8
/-- R1, w[39:37]. -/
def r1Field (w : Word) : BitVec 3 := w.extractLsb' 37 3
/-- R2, w[36:34]. -/
def r2Field (w : Word) : BitVec 3 := w.extractLsb' 34 3
/-- R3, w[33:31]. -/
def r3Field (w : Word) : BitVec 3 := w.extractLsb' 31 3
/-- N, w[30]. -/
def nField (w : Word) : BitVec 1 := w.extractLsb' 30 1
/-- SA, w[29:20]. -/
def saField (w : Word) : BitVec 10 := w.extractLsb' 20 10
/-- SB, w[19:10]. -/
def sbField (w : Word) : BitVec 10 := w.extractLsb' 10 10
/-- SC, w[9:0]. -/
def scField (w : Word) : BitVec 10 := w.extractLsb' 0 10
/-- ADDR, w[15:0]. -/
def addrField (w : Word) : Index := w.extractLsb' 0 16
/-- DUR, w[31:0]. -/
def durField (w : Word) : Millis := w.extractLsb' 0 32

/-! ## Operands -/

/-- The register a code names (R83). -/
def decodeReg (c : BitVec 3) : Except Reject Reg :=
  match c.toNat with
  | 0 => .ok .A
  | 1 => .ok .B
  | 2 => .ok .C
  | 3 => .ok .D
  | 4 => .ok .E
  | _ => .error .badRegister

/-- The register in a slot's payload (R82). -/
def decodePayloadReg (v : Byte) : Except Reject Reg :=
  if v.extractLsb' 3 5 ≠ 0#5 then .error .badSlot
  else
    match decodeReg (v.extractLsb' 0 3) with
    | .ok r => .ok r
    | .error _ => .error .badSlot

/-- The Source a slot stands for (R82). -/
def decodeSlot (sl : BitVec 10) : Except Reject Source :=
  let v : Byte := sl.extractLsb' 0 8
  match (sl.extractLsb' 8 2).toNat with
  | 0 => (decodePayloadReg v).map .reg
  | 1 => .ok (.lit v)
  | 2 => .ok (.mem (.abs v))
  | _ => (decodePayloadReg v).map (fun r => .mem (.ind r))

/-- The MemSrc a slot stands for (R84). -/
def decodeMemSlot (sl : BitVec 10) : Except Reject MemSrc :=
  match decodeSlot sl with
  | .ok (.mem m) => .ok m
  | .ok _ => .error .slotNotMemory
  | .error e => .error e

/-! ## Formats (R85): the must-be-zero bits, then the operands -/

/-- The `len` bits of `w` from bit `lo` up are all 0. -/
def zeroBits (w : Word) (lo len : Nat) : Bool := w.extractLsb' lo len == 0#len

/-- FN: no operand; w[39:0] is 0. -/
def decodeFN (i : Instr) (w : Word) : Except Reject Instr :=
  if zeroBits w 0 40 then .ok i else .error .nonzeroUnusedBit

/-- FR: R1; w[36:0] is 0. -/
def decodeFR (mk : Reg → Instr) (w : Word) : Except Reject Instr :=
  if zeroBits w 0 37 then (decodeReg (r1Field w)).map mk else .error .nonzeroUnusedBit

/-- FRN: R1, N; w[36:31] and w[29:0] are 0; `nl` is N = 0 (R91). -/
def decodeFRN (mk : Reg → Bool → Instr) (w : Word) : Except Reject Instr :=
  if zeroBits w 31 6 && zeroBits w 0 30 then
    (decodeReg (r1Field w)).map (fun r => mk r (nField w == 0#1))
  else .error .nonzeroUnusedBit

/-- FRS: R1, SA; w[36:30] and w[19:0] are 0. -/
def decodeFRS (mk : Reg → Source → Instr) (w : Word) : Except Reject Instr :=
  if zeroBits w 30 7 && zeroBits w 0 20 then
    match decodeReg (r1Field w), decodeSlot (saField w) with
    | .ok r, .ok src => .ok (mk r src)
    | .error e, _ => .error e
    | _, .error e => .error e
  else .error .nonzeroUnusedBit

/-- FRM: R1, SA of mode 10 or 11; w[36:30] and w[19:0] are 0. -/
def decodeFRM (mk : Reg → MemSrc → Instr) (w : Word) : Except Reject Instr :=
  if zeroBits w 30 7 && zeroBits w 0 20 then
    match decodeReg (r1Field w), decodeMemSlot (saField w) with
    | .ok r, .ok m => .ok (mk r m)
    | .error e, _ => .error e
    | _, .error e => .error e
  else .error .nonzeroUnusedBit

/-- FRRR: R1, R2, R3; w[30:0] is 0. -/
def decodeFRRR (mk : Reg → Reg → Reg → Instr) (w : Word) : Except Reject Instr :=
  if zeroBits w 0 31 then
    match decodeReg (r1Field w), decodeReg (r2Field w), decodeReg (r3Field w) with
    | .ok d, .ok a, .ok b => .ok (mk d a b)
    | .error e, _, _ => .error e
    | _, .error e, _ => .error e
    | _, _, .error e => .error e
  else .error .nonzeroUnusedBit

/-- FJ: ADDR; w[39:16] is 0. -/
def decodeFJ (mk : Index → Instr) (w : Word) : Except Reject Instr :=
  if zeroBits w 16 24 then .ok (mk (addrField w)) else .error .nonzeroUnusedBit

/-- FJR: R1, ADDR; w[36:16] is 0. -/
def decodeFJR (mk : Index → Reg → Instr) (w : Word) : Except Reject Instr :=
  if zeroBits w 16 21 then (decodeReg (r1Field w)).map (mk (addrField w)) else .error .nonzeroUnusedBit

/-- FSSS: SA, SB, SC; w[39:30] is 0. -/
def decodeFSSS (mk : Source → Source → Source → Instr) (w : Word) : Except Reject Instr :=
  if zeroBits w 30 10 then
    match decodeSlot (saField w), decodeSlot (sbField w), decodeSlot (scField w) with
    | .ok x, .ok y, .ok c => .ok (mk x y c)
    | .error e, _, _ => .error e
    | _, .error e, _ => .error e
    | _, _, .error e => .error e
  else .error .nonzeroUnusedBit

/-- FD: DUR; w[39:32] is 0. -/
def decodeFD (mk : Millis → Instr) (w : Word) : Except Reject Instr :=
  if zeroBits w 32 8 then .ok (mk (durField w)) else .error .nonzeroUnusedBit

/-- The decoder, rejecting by name (R86, R87, R91). -/
def decodeWord (w : Word) : Except Reject Instr :=
  match (opField w).toNat with
  | 0x01 => decodeFRS .mov w
  | 0x02 => decodeFRM .store w
  | 0x03 => decodeFRS .add w
  | 0x04 => decodeFRS .sub w
  | 0x05 => decodeFRS .mul w
  | 0x06 => decodeFRS .div w
  | 0x07 => decodeFRS .mod w
  | 0x08 => decodeFRRR .mulh w
  | 0x09 => decodeFJ .jmp w
  | 0x0A => decodeFJ .jz w
  | 0x0B => decodeFJ .jnz w
  | 0x0C => decodeFJR .loop w
  | 0x0D => decodeFRN .print w
  | 0x0E => decodeFRN .printch w
  | 0x0F => decodeFR .input w
  | 0x10 => decodeFR .inkey w
  | 0x11 => decodeFSSS .draw w
  | 0x12 => decodeFD .slp w
  | 0x13 => decodeFRS .cmp w
  | 0x14 => decodeFR .rand w
  | 0x15 => decodeFN .cls w
  | 0x16 => decodeFN .cts w
  | 0x17 => decodeFN .render w
  | 0x18 => decodeFN .halt w
  | _ => .error .unassignedOpcode

/-- `Decode : Word48 -> Option Instr` of R91. -/
def decode (w : Word) : Option Instr := (decodeWord w).toOption

/-- The instruction the decoder reads from an opcode-table word: the 48-bit word's low `nbits` bits are those of `w`, every
bit above them is 0. The program store holds whole words, so no byte order arises (R60). -/
def decodeTableWord (nbits w : Nat) : Option Instr := decode (BitVec.ofNat 48 (w % 2 ^ nbits))

/-! ## The encoder (R120) -/

/-- The code of a register (R83). -/
def encodeReg : Reg → BitVec 3
  | .A => 0#3
  | .B => 1#3
  | .C => 2#3
  | .D => 3#3
  | .E => 4#3

/-- The slot of a memory reference: mode 10 or 11 (R82, R84). -/
def encodeMemSlot : MemSrc → BitVec 10
  | .abs a => 0b10#2 ++ a
  | .ind r => 0b11#2 ++ 0#5 ++ encodeReg r

/-- The slot of a Source (R82). -/
def encodeSlot : Source → BitVec 10
  | .reg r => 0b00#2 ++ 0#5 ++ encodeReg r
  | .lit v => 0b01#2 ++ v
  | .mem m => encodeMemSlot m

/-- The FN word of an opcode (R85). -/
def wordFN (op : BitVec 8) : Word := op ++ 0#40
/-- The FR word (R85). -/
def wordFR (op : BitVec 8) (r : Reg) : Word := op ++ encodeReg r ++ 0#37
/-- The FRN word: N = 1 means no newline (R85, R114). -/
def wordFRN (op : BitVec 8) (r : Reg) (nl : Bool) : Word :=
  op ++ encodeReg r ++ 0#6 ++ (if nl then 0#1 else 1#1) ++ 0#30
/-- The FRS word (R85). -/
def wordFRS (op : BitVec 8) (r : Reg) (src : Source) : Word := op ++ encodeReg r ++ 0#7 ++ encodeSlot src ++ 0#20
/-- The FRM word (R85). -/
def wordFRM (op : BitVec 8) (r : Reg) (m : MemSrc) : Word := op ++ encodeReg r ++ 0#7 ++ encodeMemSlot m ++ 0#20
/-- The FRRR word (R85). -/
def wordFRRR (op : BitVec 8) (d a b : Reg) : Word := op ++ encodeReg d ++ encodeReg a ++ encodeReg b ++ 0#31
/-- The FJ word (R85). -/
def wordFJ (op : BitVec 8) (t : Index) : Word := op ++ 0#24 ++ t
/-- The FJR word (R85). -/
def wordFJR (op : BitVec 8) (t : Index) (r : Reg) : Word := op ++ encodeReg r ++ 0#21 ++ t
/-- The FSSS word (R85). -/
def wordFSSS (op : BitVec 8) (x y c : Source) : Word := op ++ 0#10 ++ encodeSlot x ++ encodeSlot y ++ encodeSlot c
/-- The FD word (R85). -/
def wordFD (op : BitVec 8) (ms : Millis) : Word := op ++ 0#8 ++ ms

/-- The word of an instruction (R86, R120). -/
def encode : Instr → Word
  | .mov d src => wordFRS 0x01#8 d src
  | .store r m => wordFRM 0x02#8 r m
  | .add d src => wordFRS 0x03#8 d src
  | .sub d src => wordFRS 0x04#8 d src
  | .mul d src => wordFRS 0x05#8 d src
  | .div d src => wordFRS 0x06#8 d src
  | .mod d src => wordFRS 0x07#8 d src
  | .mulh d a b => wordFRRR 0x08#8 d a b
  | .jmp t => wordFJ 0x09#8 t
  | .jz t => wordFJ 0x0A#8 t
  | .jnz t => wordFJ 0x0B#8 t
  | .loop t r => wordFJR 0x0C#8 t r
  | .print r nl => wordFRN 0x0D#8 r nl
  | .printch r nl => wordFRN 0x0E#8 r nl
  | .input r => wordFR 0x0F#8 r
  | .inkey r => wordFR 0x10#8 r
  | .draw x y c => wordFSSS 0x11#8 x y c
  | .slp ms => wordFD 0x12#8 ms
  | .cmp r src => wordFRS 0x13#8 r src
  | .rand r => wordFR 0x14#8 r
  | .cls => wordFN 0x15#8
  | .cts => wordFN 0x16#8
  | .render => wordFN 0x17#8
  | .halt => wordFN 0x18#8

end Sys2Proof
end

