-- ==== Sys2Proof/Machine/State.lean ====
section
/-! DEFINITION. The state of the core as plain data, the reasons a step can stop, and the state after reset
(10_state.md, 60_exceptions.md R220 to R234, 70_reset_and_hazards.md R260). -/

namespace Sys2Proof.Machine

/-- Data memory: address and byte, addresses strictly rising, no entry equal to `Config.memBlank` (R27, log 20). -/
abbrev Memory := List Host.Cell

/-- The display buffer: the cell (row, col) at key row * 80 + col, keys strictly rising, no entry equal to a space
(R29, log 20). -/
abbrev Grid := List Host.Cell

/-- The register file (R20): five 8-bit cells. -/
structure Regs where
  a : Byte
  b : Byte
  c : Byte
  d : Byte
  e : Byte
  deriving DecidableEq, Repr, Inhabited

/-- The fault causes (R221). -/
inductive Cause where
  /-- DIV or MOD with a divisor that resolves to 0. -/
  | divByZero
  /-- INPUT with a line that is neither numeric, nor one character, nor empty. -/
  | invalidInput
  /-- The fetched word is illegal (R87, R88). -/
  | illegalInstruction
  deriving DecidableEq, Repr, Inhabited

/-- The run state (R30). HALTED and FAULTED are final. -/
inductive Run where
  | running
  | halted
  /-- `index` is the pc of the faulting instruction (the rule's `at`). -/
  | faulted (cause : Cause) (index : Index)
  deriving DecidableEq, Repr, Inhabited

/-- The events the core sends to the host (R31, R229). -/
inductive Event where
  | print (v : Byte) (nl : Bool)
  | printCh (v : Byte) (nl : Bool)
  /-- The snapshot of RENDER: 25 rows of 80 cells, row 0 first (R203). -/
  | render (grid : List (List Byte))
  | clearTerminal
  | sleep (ms : Millis)
  deriving DecidableEq, Repr, Inhabited

/-- The host's answers to come: the model's own plain data (R230, log 1 to 3). An answer the lists do not hold is a free value
of Config applied to `draws`. -/
structure Inputs where
  /-- The lines INPUT reads, next first. -/
  lines : List LineEvent
  /-- Whether the host never answers INPUT once `lines` is used up (R236, I11). -/
  lineSilent : Bool
  /-- For each poll to come, the key events pending at that poll: the host's pending-key queue, drained by the poll (R233). -/
  keys : List (List KeyEvent)
  /-- The bytes the random source answers, next first (R234). -/
  rands : List Byte
  /-- How many answers the host has given so far. -/
  draws : Nat
  deriving DecidableEq, Repr, Inhabited

/-- The state of the core (10_state.md), with the host's answers to come. -/
structure State where
  /-- The register file (R20). -/
  regs : Regs
  /-- The program counter, an instruction index (R23). -/
  pc : Index
  /-- The zero flag (R25). -/
  z : Bool
  /-- Data memory (R27). -/
  mem : Memory
  /-- The program store (R28). -/
  prog : List Word
  /-- The display buffer (R29). -/
  disp : Grid
  /-- The run state (R30). -/
  run : Run
  /-- The output trace, oldest event first (R31). -/
  out : List Event
  /-- The host's answers to come (log 1). -/
  inputs : Inputs
  deriving DecidableEq, Repr, Inhabited

/-- Why there is no next state. A fault the spec describes (R220) is not one of these: it is a next state whose run state is
FAULTED (log 6). All three are safe: the spec gives the state no step. -/
inductive Fault where
  /-- Raised by `step` in a state that is HALTED: it has no step (R30, R262). Safe. -/
  | haltedNoStep
  /-- Raised by `step` in a state that is FAULTED: it has no step (R220, R262). Safe. -/
  | faultedNoStep (cause : Cause) (index : Index)
  /-- Raised by INPUT when the host never answers: the core waits for ever and takes no step, and its state, which stays RUNNING,
  is unchanged (R236, I11, log 2). Safe. -/
  | waitsForLine
  deriving DecidableEq, Repr, Inhabited

/-- Why an instruction has no meaning in the model. -/
inductive Refusal where
  /-- Raised by an arm of `exec` whose instruction is not modelled yet; no arm raises it now. Safe. -/
  | notModelled (mnemonic : String)
  deriving DecidableEq, Repr

/-- A register file of zeros (R22, D8). -/
def Regs.zero : Regs := { a := 0x00#8, b := 0x00#8, c := 0x00#8, d := 0x00#8, e := 0x00#8 }

/-- No answer listed, a host that answers, no answer given yet (log 1, 2, 3). -/
def Inputs.none : Inputs := { lines := [], lineSilent := false, keys := [], rands := [], draws := 0 }

/-- The state a run begins in, with the launch parameters `initRegs`, `initMem`, `initZ` and the loaded program (R260, D8). -/
def State.launch (initRegs : Regs) (initMem : Memory) (initZ : Bool) (prog : List Word) (inputs : Inputs) : State :=
  { regs := initRegs, pc := 0x0000#16, z := initZ, mem := initMem, prog := prog, disp := [], run := .running, out := [],
    inputs := inputs }

/-- The machine right after reset (R34, R260), with no program loaded (log 5). -/
def State.reset : State := State.launch Regs.zero [] false [] Inputs.none

end Sys2Proof.Machine
end

