-- ==== Sys2Proof/Machine/Ops.lean ====
section
/-! DEFINITION. The named operations over registers, memory, display, output, run state and the host's answers: the
primitives of R8. Every read and write of the state goes through them. -/

namespace Sys2Proof.Machine

/-! ## Cells in canonical form: the one representation of data memory and of the display buffer (log 20) -/

/-- The byte at key `k`; `blank` where no entry lists it. -/
def readCell (blank : Byte) : List Host.Cell → Nat → Byte
  | [], _ => blank
  | (j, v) :: rest, k => if j = k then v else readCell blank rest k

/-- Put `v` in front, unless it is what an unlisted key reads as. -/
def consCell (blank : Byte) (k : Nat) (v : Byte) (rest : List Host.Cell) : List Host.Cell :=
  if v = blank then rest else (k, v) :: rest

/-- Write `v` at key `k`, keeping the canonical form. -/
def writeCell (blank : Byte) : List Host.Cell → Nat → Byte → List Host.Cell
  | [], k, v => consCell blank k v []
  | (j, x) :: rest, k, v =>
    if k < j then consCell blank k v ((j, x) :: rest)
    else if k = j then consCell blank k v rest
    else (j, x) :: writeCell blank rest k v

/-- The keys rise strictly from `lo` on, stay below `bound`, and no entry holds `blank`. -/
def canonicalFrom (blank : Byte) (bound : Nat) : Nat → List Host.Cell → Bool
  | _, [] => true
  | lo, (k, v) :: rest => decide (lo ≤ k) && decide (k < bound) && decide (v ≠ blank) && canonicalFrom blank bound (k + 1) rest

/-- The canonical form of data memory (R27, log 20). -/
def Memory.wf (m : Memory) : Bool := canonicalFrom Config.memBlank Config.memSize 0 m

/-- The canonical form of the display buffer (R29, log 20). -/
def Grid.wf (g : Grid) : Bool := canonicalFrom Config.dispBlank (Config.rows * Config.cols) 0 g

/-! ## Registers (R20) -/

/-- The register file's cell `r`. -/
def Regs.get (rs : Regs) : Reg → Byte
  | .A => rs.a
  | .B => rs.b
  | .C => rs.c
  | .D => rs.d
  | .E => rs.e

/-- The register file with `v` in cell `r`. -/
def Regs.set (rs : Regs) (r : Reg) (v : Byte) : Regs :=
  match r with
  | .A => { rs with a := v }
  | .B => { rs with b := v }
  | .C => { rs with c := v }
  | .D => { rs with d := v }
  | .E => { rs with e := v }

/-- `x[r]` (R8). -/
def State.reg (s : State) (r : Reg) : Byte := s.regs.get r

/-- `x[r] <- v` (R8). -/
def State.setReg (s : State) (r : Reg) (v : Byte) : State := { s with regs := s.regs.set r v }

/-! ## Program counter and run state (R24, R30, R94) -/

/-- `pc <- pc + 1` (R24). -/
def State.advance (s : State) : State := { s with pc := s.pc + 1#16 }

/-- `pc <- t` (R94). -/
def State.jump (s : State) (t : Index) : State := { s with pc := t }

/-- `run <- HALTED`, pc unchanged (R175, R95; D18, log 15). -/
def State.halt (s : State) : State := { s with run := .halted }

/-- Taking a fault, the one operation for all causes: `run <- FAULTED(cause, pc)`, and nothing else is written (R220, R222). The
core has no trap entry and no return from one (R225, R226), so there is no operation beside it that undoes it. -/
def State.raiseFault (s : State) (cause : Cause) : State := { s with run := .faulted cause s.pc }

/-- The code of a fault cause (R221; D19, log 16). -/
def Cause.code : Cause → Nat
  | .divByZero => 1
  | .invalidInput => 2
  | .illegalInstruction => 3

/-- The fault record the host reads: the cause and the index, when the run state is FAULTED (R223). -/
def State.faultRecord (s : State) : Option (Cause × Index) :=
  match s.run with
  | .faulted c i => some (c, i)
  | .running => none
  | .halted => none

/-! ## Data memory (R54, R55) -/

/-- `MemRead(a, 1)` (R54). -/
def State.memRead (s : State) (a : Byte) : Byte := readCell Config.memBlank s.mem a.toNat

/-- `MemWrite(a, 1, v)` (R55). -/
def State.memWrite (s : State) (a v : Byte) : State := { s with mem := writeCell Config.memBlank s.mem a.toNat v }

/-! ## Program store (R28, R92) -/

/-- The word at the pc, when `pc < L` (R92). -/
def State.fetch (s : State) : Option Word := s.prog[s.pc.toNat]?

/-! ## Display buffer (R58) -/

/-- The key of the cell (row, col) (log 20). -/
def cellKey (row col : Nat) : Nat := row * Config.cols + col

/-- `disp[row][col]`, for row < 25 and col < 80 (R29). -/
def State.cell (s : State) (row col : Nat) : Byte := readCell Config.dispBlank s.disp (cellKey row col)

/-- `DispWrite(row, col, ch)`, for row < 25 and col < 80 (R58). -/
def State.dispWrite (s : State) (row col : Nat) (ch : Byte) : State :=
  { s with disp := writeCell Config.dispBlank s.disp (cellKey row col) ch }

/-- A grid with `ch` in every cell. -/
def filledGrid (ch : Byte) : Grid :=
  if ch = Config.dispBlank then [] else (List.range (Config.rows * Config.cols)).map (fun k => (k, ch))

/-- `DispFill(ch)` (R58). -/
def State.dispFill (s : State) (ch : Byte) : State := { s with disp := filledGrid ch }

/-- `DispRead()`: the 25 rows of 80 cells, row 0 first (R58, R203). -/
def State.dispRead (s : State) : List (List Byte) :=
  (List.range Config.rows).map (fun row => (List.range Config.cols).map (fun col => s.cell row col))

/-! ## Output (R31) -/

/-- `Emit(e)` (R31). -/
def State.emit (s : State) (e : Event) : State := { s with out := s.out ++ [e] }

/-! ## The host's answers (R230, log 1 to 3) -/

/-- The line the host supplies next: the listed one, else nothing from a silent host, else a free value (R232, R236). -/
def State.lineEvent (s : State) : Option LineEvent :=
  match s.inputs.lines with
  | e :: _ => some e
  | [] => if s.inputs.lineSilent then none else some (Config.freeLine s.inputs.draws)

/-- The host has supplied its line. -/
def State.takeLine (s : State) : State :=
  { s with inputs := { s.inputs with lines := s.inputs.lines.tail, draws := s.inputs.draws + 1 } }

/-- The key events pending at the next poll: the listed ones, else a free value (R233). -/
def State.pendingKeys (s : State) : List KeyEvent :=
  match s.inputs.keys with
  | batch :: _ => batch
  | [] => Config.freeKeys s.inputs.draws

/-- The host has answered a poll and drained its queue (R233). -/
def State.drainKeys (s : State) : State :=
  { s with inputs := { s.inputs with keys := s.inputs.keys.tail, draws := s.inputs.draws + 1 } }

/-- The byte the random source answers next: the listed one, else a free value (R234). -/
def State.randomByte (s : State) : Byte :=
  match s.inputs.rands with
  | v :: _ => v
  | [] => Config.freeRandom s.inputs.draws

/-- The random source has answered. -/
def State.takeRandom (s : State) : State :=
  { s with inputs := { s.inputs with rands := s.inputs.rands.tail, draws := s.inputs.draws + 1 } }

end Sys2Proof.Machine
end

