-- ==== Sys2Proof/Machine/Text.lean ====
section
/-! DEFINITION. Text: the characters and decimal literals that the line reader (R232), the assembler (R111 to R113) and the
printed form of a number (R181) share. -/

namespace Sys2Proof.Machine

/-- An ASCII digit (R111, R232). -/
def isDigitChar (c : Char) : Bool := decide (48 ≤ c.toNat) && decide (c.toNat ≤ 57)

/-- The number a string of digits spells, with `acc` before it. -/
def digitsValue : Nat → List Char → Nat
  | acc, [] => acc
  | acc, c :: rest => digitsValue (acc * 10 + (c.toNat - 48)) rest

/-- One or more ASCII digits with value at most `max`; leading zeros allowed (R111, R112, R113, R232). -/
def parseDecimal (max : Nat) (t : List Char) : Option Nat :=
  if t.isEmpty = false ∧ t.all isDigitChar = true ∧ digitsValue 0 t ≤ max then some (digitsValue 0 t) else none

/-- The digit of a value 0..9. -/
def digitChar (n : Nat) : Char := Char.ofNat (48 + n)

/-- The shortest decimal form of a number below `10 ^ fuel`, in front of `tail`; "0" for zero. -/
def decimalOnto : Nat → Nat → List Char → List Char
  | 0, _, tail => tail
  | fuel + 1, n, tail =>
    if n < 10 then digitChar n :: tail else decimalOnto fuel (n / 10) (digitChar (n % 10) :: tail)

/-- The shortest decimal form of a number of at most ten digits (R181, R113). -/
def decimalText (n : Nat) : List Char := decimalOnto 10 n []

end Sys2Proof.Machine
end

