-- ==== Sys2Proof/Machine/Assembler.lean ====
section
/-! DEFINITION. The two-pass assembler: source text to instructions (30_encoding.md R100 to R122). It runs before the core
starts; its errors are not core faults (R240). -/

namespace Sys2Proof.Machine

/-- A whitespace-delimited token (R105). -/
abbrev Token := List Char

/-- The label table: name and instruction index. It does not reach the core (R100). -/
abbrev Labels := List (Token × Nat)

/-- What is wrong with a segment (R115). -/
inductive AsmErrorKind where
  | unknownMnemonic
  | operandCount
  /-- Not exactly one of A to E (R107). -/
  | badRegister
  /-- A malformed memory operand (R108). -/
  | badMemref
  /-- A malformed byte or character literal (R110, R111). -/
  | badLiteral
  /-- A numeric target above 65535, or a label bound above it (R112; log 22). -/
  | badTarget
  | unresolvedLabel
  /-- SLP's operand is not a literal 0..4294967295 (R113). -/
  | badDuration
  /-- PRINT's second token is not exactly -N (R114). -/
  | badSuffix
  /-- A label name that is empty or holds a colon (R117). -/
  | badLabelName
  | duplicateLabel
  deriving DecidableEq, Repr

/-- An assembly error names the line (counted from 1) and the segment (R115). -/
structure AsmError where
  kind : AsmErrorKind
  line : Nat
  segment : List Char
  deriving DecidableEq, Repr

/-- A trimmed, non-empty segment of a source line (R102). -/
structure Segment where
  line : Nat
  text : List Char
  deriving DecidableEq, Repr

/-- An instruction statement queued by pass 1 (R104). -/
structure Statement where
  segment : Segment
  tokens : List Token
  deriving DecidableEq, Repr

/-! ## Lexing (R101 to R105) -/

/-- Whitespace: space, tab, LF, VT, FF, CR (log 19). -/
def isSpaceChar (c : Char) : Bool := decide (c.toNat = 32) || (decide (9 ≤ c.toNat) && decide (c.toNat ≤ 13))

/-- An ASCII letter (R108). -/
def isLetterChar (c : Char) : Bool :=
  (decide (65 ≤ c.toNat) && decide (c.toNat ≤ 90)) || (decide (97 ≤ c.toNat) && decide (c.toNat ≤ 122))

/-- The pieces of a text between its separators, empty ones included. -/
def splitWhere (sep : Char → Bool) : List Char → List (List Char)
  | [] => [[]]
  | c :: rest =>
    if sep c then [] :: splitWhere sep rest
    else
      match splitWhere sep rest with
      | [] => [[c]]
      | piece :: pieces => (c :: piece) :: pieces

/-- A line without its comment: from the first double slash on, everything is dropped (R101). -/
def stripComment : List Char → List Char
  | [] => []
  | c :: rest => if c = '/' ∧ rest.head? = some '/' then [] else c :: stripComment rest

/-- A text without surrounding whitespace (R102). -/
def trimText (t : List Char) : List Char := ((t.dropWhile isSpaceChar).reverse.dropWhile isSpaceChar).reverse

/-- The segments of one line, comment removed (R101, R102). -/
def lineSegments (n : Nat) (line : List Char) : List Segment :=
  (((splitWhere (· == ';') (stripComment line)).map trimText).filter (fun t => t.isEmpty = false)).map
    (fun t => { line := n, text := t })

/-- The segments of the lines from number `n` on. -/
def segmentsFrom : Nat → List (List Char) → List Segment
  | _, [] => []
  | n, line :: rest => lineSegments n line ++ segmentsFrom (n + 1) rest

/-- The segments of the source text, in order (R102). -/
def segmentsOf (source : List Char) : List Segment := segmentsFrom 1 (splitWhere (· == '\n') source)

/-- The whitespace-delimited tokens of a segment (R105). -/
def tokensOf (t : List Char) : List Token := (splitWhere isSpaceChar t).filter (fun tok => tok.isEmpty = false)

/-! ## Pass 1: labels (R103, R104, R117) -/

/-- A leading token of this form declares a label (R103). -/
def isLabelToken (t : Token) : Bool := t.getLast? == some ':'

/-- The index a label is bound to; names are exact and case-sensitive (R112). -/
def lookupLabel (labels : Labels) (name : Token) : Option Nat :=
  match labels with
  | [] => none
  | (n, i) :: rest => if n = name then some i else lookupLabel rest name

/-- Bind each label token to the index of the next instruction (R103, R104, R117). -/
def declareLabels (index : Nat) : List Token → Labels → Except AsmErrorKind Labels
  | [], labels => .ok labels
  | t :: rest, labels =>
    if t.dropLast.isEmpty ∨ t.dropLast.contains ':' then .error .badLabelName
    else if (lookupLabel labels t.dropLast).isSome then .error .duplicateLabel
    else declareLabels index rest (labels ++ [(t.dropLast, index)])

/-- Pass 1: collect the labels and queue the instruction statements (R100, R104). -/
def collect : List Segment → Labels → List Statement → Except AsmError (Labels × List Statement)
  | [], labels, queue => .ok (labels, queue)
  | seg :: rest, labels, queue =>
    match declareLabels queue.length ((tokensOf seg.text).takeWhile isLabelToken) labels with
    | .error k => .error { kind := k, line := seg.line, segment := seg.text }
    | .ok labels' =>
      match (tokensOf seg.text).dropWhile isLabelToken with
      | [] => collect rest labels' queue
      | t :: ts => collect rest labels' (queue ++ [{ segment := seg, tokens := t :: ts }])

/-! ## Operands (R107 to R114) -/

/-- A register name, upper case (R107). -/
def registerOf (t : Token) : Option Reg :=
  if t = ['A'] then some .A
  else if t = ['B'] then some .B
  else if t = ['C'] then some .C
  else if t = ['D'] then some .D
  else if t = ['E'] then some .E
  else none

/-- A reg operand (R107). -/
def parseReg (t : Token) : Except AsmErrorKind Reg :=
  match registerOf t with
  | some r => .ok r
  | none => .error .badRegister

/-- A bracketed token. -/
def isBracketed (t : Token) : Bool := decide (2 ≤ t.length) && t.head? == some '[' && t.getLast? == some ']'

/-- A memref operand: all-alphabetic contents are a register, anything else a decimal address (R108). -/
def parseMemref (t : Token) : Except AsmErrorKind MemSrc :=
  let inner := t.tail.dropLast
  if isBracketed t = false then .error .badMemref
  else if inner.isEmpty = false ∧ inner.all isLetterChar = true then
    match registerOf inner with
    | some r => .ok (.ind r)
    | none => .error .badMemref
  else
    match parseDecimal 255 inner with
    | some a => .ok (.abs (BitVec.ofNat 8 a))
    | none => .error .badMemref

/-- The character of a three-character token quoted by apostrophes (R110). -/
def quotedChar (t : Token) : Option Char :=
  match t with
  | [q, c, q'] => if q.toNat = 39 ∧ q'.toNat = 39 then some c else none
  | _ => none

/-- A src operand, tried in the order of R109. -/
def parseSource (t : Token) : Except AsmErrorKind Source :=
  match registerOf t with
  | some r => .ok (.reg r)
  | none =>
    if isBracketed t then (parseMemref t).map .mem
    else
      match quotedChar t with
      | some c => if c.toNat ≤ 0xFF then .ok (.lit (BitVec.ofNat 8 c.toNat)) else .error .badLiteral
      | none =>
        match parseDecimal 255 t with
        | some v => .ok (.lit (BitVec.ofNat 8 v))
        | none => .error .badLiteral

/-- A label's index as a target: one above 65535 does not fit ADDR (log 22). -/
def labelTarget (i : Nat) : Except AsmErrorKind Index :=
  if i ≤ 65535 then .ok (BitVec.ofNat 16 i) else .error .badTarget

/-- A target operand: the numeric form first, then a label lookup (R112). -/
def parseTarget (labels : Labels) (t : Token) : Except AsmErrorKind Index :=
  if t.isEmpty = false ∧ t.all isDigitChar = true then
    match parseDecimal 65535 t with
    | some n => .ok (BitVec.ofNat 16 n)
    | none => .error .badTarget
  else
    match lookupLabel labels t with
    | some i => labelTarget i
    | none => .error .unresolvedLabel

/-- SLP's operand (R113). -/
def parseMillis (t : Token) : Except AsmErrorKind Millis :=
  match parseDecimal 4294967295 t with
  | some n => .ok (BitVec.ofNat 32 n)
  | none => .error .badDuration

/-! ## Statements (R106) -/

/-- No operand. -/
def buildNone (i : Instr) (ops : List Token) : Except AsmErrorKind Instr :=
  match ops with
  | [] => .ok i
  | _ :: _ => .error .operandCount

/-- One register. -/
def buildReg (mk : Reg → Instr) (ops : List Token) : Except AsmErrorKind Instr :=
  match ops with
  | [r] => (parseReg r).map mk
  | _ => .error .operandCount

/-- A register and a source. -/
def buildRegSource (mk : Reg → Source → Instr) (ops : List Token) : Except AsmErrorKind Instr :=
  match ops with
  | [r, src] => (parseReg r).bind (fun r => (parseSource src).map (mk r))
  | _ => .error .operandCount

/-- A register and a memory reference. -/
def buildRegMemref (mk : Reg → MemSrc → Instr) (ops : List Token) : Except AsmErrorKind Instr :=
  match ops with
  | [r, m] => (parseReg r).bind (fun r => (parseMemref m).map (mk r))
  | _ => .error .operandCount

/-- Three registers. -/
def buildRegs (mk : Reg → Reg → Reg → Instr) (ops : List Token) : Except AsmErrorKind Instr :=
  match ops with
  | [d, a, b] => (parseReg d).bind (fun d => (parseReg a).bind (fun a => (parseReg b).map (mk d a)))
  | _ => .error .operandCount

/-- A target. -/
def buildTarget (labels : Labels) (mk : Index → Instr) (ops : List Token) : Except AsmErrorKind Instr :=
  match ops with
  | [t] => (parseTarget labels t).map mk
  | _ => .error .operandCount

/-- A target, then a register. -/
def buildTargetReg (labels : Labels) (mk : Index → Reg → Instr) (ops : List Token) : Except AsmErrorKind Instr :=
  match ops with
  | [t, r] => (parseTarget labels t).bind (fun t => (parseReg r).map (mk t))
  | _ => .error .operandCount

/-- A register, then an optional -N, which means no newline (R114). -/
def buildPrint (mk : Reg → Bool → Instr) (ops : List Token) : Except AsmErrorKind Instr :=
  match ops with
  | [r] => (parseReg r).map (fun r => mk r true)
  | [r, n] => (parseReg r).bind (fun r => if n = ['-', 'N'] then .ok (mk r false) else .error .badSuffix)
  | _ => .error .operandCount

/-- Three sources. -/
def buildSources (mk : Source → Source → Source → Instr) (ops : List Token) : Except AsmErrorKind Instr :=
  match ops with
  | [x, y, c] => (parseSource x).bind (fun x => (parseSource y).bind (fun y => (parseSource c).map (mk x y)))
  | _ => .error .operandCount

/-- A duration. -/
def buildMillis (mk : Millis → Instr) (ops : List Token) : Except AsmErrorKind Instr :=
  match ops with
  | [ms] => (parseMillis ms).map mk
  | _ => .error .operandCount

/-- The instruction of a mnemonic and its operands (R105, R106, R116, R118). -/
def buildInstr (labels : Labels) (m : Token) (ops : List Token) : Except AsmErrorKind Instr :=
  if m = "MOV".toList then buildRegSource .mov ops
  else if m = "STORE".toList then buildRegMemref .store ops
  else if m = "ADD".toList then buildRegSource .add ops
  else if m = "SUB".toList then buildRegSource .sub ops
  else if m = "MUL".toList then buildRegSource .mul ops
  else if m = "DIV".toList then buildRegSource .div ops
  else if m = "MOD".toList then buildRegSource .mod ops
  else if m = "MULH".toList then buildRegs .mulh ops
  else if m = "JMP".toList then buildTarget labels .jmp ops
  else if m = "JZ".toList then buildTarget labels .jz ops
  else if m = "JNZ".toList then buildTarget labels .jnz ops
  else if m = "LOOP".toList then buildTargetReg labels .loop ops
  else if m = "PRINT".toList then buildPrint .print ops
  else if m = "PRINTCH".toList then buildPrint .printch ops
  else if m = "INPUT".toList then buildReg .input ops
  else if m = "INKEY".toList then buildReg .inkey ops
  else if m = "DRAW".toList then buildSources .draw ops
  else if m = "SLP".toList then buildMillis .slp ops
  else if m = "CMP".toList then buildRegSource .cmp ops
  else if m = "RAND".toList then buildReg .rand ops
  else if m = "CLS".toList then buildNone .cls ops
  else if m = "CTS".toList then buildNone .cts ops
  else if m = "RENDER".toList then buildNone .render ops
  else if m = "HALT".toList then buildNone .halt ops
  else .error .unknownMnemonic

/-- The instruction of a queued statement; pass 1 queues no statement without tokens. -/
def buildStatement (labels : Labels) (st : Statement) : Except AsmErrorKind Instr :=
  match st.tokens with
  | [] => .error .unknownMnemonic
  | m :: ops => buildInstr labels m ops

/-- Pass 2: one instruction per queued statement, in order (R100, R105). -/
def buildAll (labels : Labels) : List Statement → Except AsmError (List Instr)
  | [] => .ok []
  | st :: rest =>
    match buildStatement labels st with
    | .error k => .error { kind := k, line := st.segment.line, segment := st.segment.text }
    | .ok i => (buildAll labels rest).map (i :: ·)

/-- The assembler: source text to the program, instruction 0 first (R100). -/
def assemble (source : List Char) : Except AsmError (List Instr) :=
  match collect (segmentsOf source) [] [] with
  | .error e => .error e
  | .ok (labels, queue) => buildAll labels queue

/-- The image the loader takes: each instruction's word (R120). -/
def assembleImage (source : List Char) : Except AsmError (List Word) := (assemble source).map (fun is => is.map encode)

end Sys2Proof.Machine
end

