-- ==== Sys2Proof/Machine/Boot.lean ====
section
/-! DEFINITION. Loading a program and starting the core (70_reset_and_hazards.md R260, R261). -/

namespace Sys2Proof.Machine

/-- Why no run begins (R115, R240, I19): neither is a fault of the core. -/
inductive BootError where
  /-- The assembler rejected the source text (R115). -/
  | assembly (e : AsmError)
  /-- The loader refuses a program of more than 65535 instructions (D6, I19, log 14). -/
  | programTooLong
  deriving DecidableEq, Repr

/-- Load the words and reset the core, with its launch parameters and the host's answers to come (R260, R261 steps 2 and 3). -/
def loadProgram (initRegs : Regs) (initMem : Memory) (initZ : Bool) (image : List Word) (inputs : Inputs) :
    Except BootError State :=
  if image.length ≤ Config.maxProg then .ok (State.launch initRegs initMem initZ image inputs) else .error .programTooLong

/-- Boot from source text with the default launch parameters: assemble, load, reset (R261 steps 1 to 3). -/
def boot (source : List Char) (inputs : Inputs) : Except BootError State :=
  match assemble source with
  | .error e => .error (.assembly e)
  | .ok instrs => loadProgram Regs.zero [] false (instrs.map encode) inputs

/-- The program store with `w` at index `i`; words of zeros fill the gap when the program is shorter. -/
def placeWord (prog : List Word) (i : Nat) (w : Word) : List Word :=
  prog.take i ++ List.replicate (i - prog.length) 0#48 ++ w :: prog.drop (i + 1)

end Sys2Proof.Machine
end

