-- ==== Sys2Proof/Machine/Flags.lean ====
section
/-! DEFINITION. The zero flag, the one flag of the core (R25): its computations and its write. -/

namespace Sys2Proof.Machine

/-- `v == 0`: the flag of a datum just produced or moved (R26). -/
def zeroFlag (v : Byte) : Bool := decide (v.toNat = 0)

/-- `a == b`: the flag of CMP (R147). -/
def equalFlag (a b : Byte) : Bool := decide (a = b)

/-- `Z <- b` (R8). -/
def State.setZ (s : State) (b : Bool) : State := { s with z := b }

/-- A result into a register, Z from that result, on to the next instruction: the common end of MOV, the arithmetic
instructions, INPUT and INKEY (R26, R94). -/
def State.produce (s : State) (d : Reg) (v : Byte) : State := ((s.setReg d v).setZ (zeroFlag v)).advance

end Sys2Proof.Machine
end

