-- ==== Sys2Proof/Machine/Operands.lean ====
section
/-! DEFINITION. The operand resolver: the effective address and the four Source forms (20_memory.md R50 to R53). -/

namespace Sys2Proof.Machine

/-- `EA(m)` (R53): every 8-bit value is a valid address. -/
def State.effectiveAddress (s : State) : MemSrc → Byte
  | .abs a => a
  | .ind r => s.reg r

/-- `Resolve(src)` (R51); it changes nothing (R52). -/
def State.resolve (s : State) : Source → Byte
  | .lit v => v
  | .reg r => s.reg r
  | .mem m => s.memRead (s.effectiveAddress m)

end Sys2Proof.Machine
end

