-- ==== Sys2Proof/Machine/Alu.lean ====
section
/-! DEFINITION. The ALU: ADD, SUB, MUL, DIV, MOD, MULH, CMP (40_alu.md R140 to R149). Each result is the exact integer one,
narrowed once. -/

namespace Sys2Proof.Machine

/-- `trunc8(v)`: `v mod 256` (R8). -/
def trunc8 (v : Nat) : Byte := BitVec.ofNat 8 v

/-- `(a + b) mod 256` (R141). -/
def aluAdd (a b : Byte) : Byte := trunc8 (a.toNat + b.toNat)

/-- `(a - b) mod 256`, in 0..255 (R142). -/
def aluSub (a b : Byte) : Byte := trunc8 (((a.toNat : Int) - (b.toNat : Int)) % 256).toNat

/-- The low byte of the product (R143). -/
def aluMul (a b : Byte) : Byte := trunc8 (a.toNat * b.toNat)

/-- `a div b`, for b > 0 (R144; D10, log 9). -/
def aluDiv (a b : Byte) : Byte := trunc8 (a.toNat / b.toNat)

/-- `a mod b`, for b > 0 (R145; D10, log 9). -/
def aluMod (a b : Byte) : Byte := trunc8 (a.toNat % b.toNat)

/-- The high byte of the exact 16-bit product (R146). -/
def aluMulh (a b : Byte) : Byte := trunc8 (a.toNat * b.toNat / 256)

/-- The outcome of a division: DIV_BY_ZERO on a zero divisor, checked before dividing, else the result (R144, R145). -/
def State.divide (s : State) (d : Reg) (divisor result : Byte) : State :=
  if divisor.toNat = 0 then s.raiseFault .divByZero else s.produce d result

/-- ADD d src (R141). -/
def execAdd (d : Reg) (src : Source) (s : State) : Host.Outcome State Fault Refusal :=
  .next (s.produce d (aluAdd (s.reg d) (s.resolve src)))

/-- SUB d src (R142). -/
def execSub (d : Reg) (src : Source) (s : State) : Host.Outcome State Fault Refusal :=
  .next (s.produce d (aluSub (s.reg d) (s.resolve src)))

/-- MUL d src (R143). -/
def execMul (d : Reg) (src : Source) (s : State) : Host.Outcome State Fault Refusal :=
  .next (s.produce d (aluMul (s.reg d) (s.resolve src)))

/-- DIV d src (R144). -/
def execDiv (d : Reg) (src : Source) (s : State) : Host.Outcome State Fault Refusal :=
  .next (s.divide d (s.resolve src) (aluDiv (s.reg d) (s.resolve src)))

/-- MOD d src (R145). -/
def execMod (d : Reg) (src : Source) (s : State) : Host.Outcome State Fault Refusal :=
  .next (s.divide d (s.resolve src) (aluMod (s.reg d) (s.resolve src)))

/-- MULH d a b: the first register is the destination (R146; D9, log 8). -/
def execMulh (d a b : Reg) (s : State) : Host.Outcome State Fault Refusal :=
  .next (s.produce d (aluMulh (s.reg a) (s.reg b)))

/-- CMP r src: Z from equality, nothing else (R147). -/
def execCmp (r : Reg) (src : Source) (s : State) : Host.Outcome State Fault Refusal :=
  .next (s.setZ (equalFlag (s.reg r) (s.resolve src))).advance

end Sys2Proof.Machine
end

