-- ==== Sys2Proof/Machine/ControlTransfer.lean ====
section
/-! DEFINITION. Control transfer: JMP, JZ, JNZ, LOOP, HALT (42_control_transfer.md R170 to R175). -/

namespace Sys2Proof.Machine

/-- A conditional transfer: to the target when taken, else to exactly pc + 1 (R94, R170). -/
def State.branch (s : State) (taken : Bool) (t : Index) : State := if taken then s.jump t else s.advance

/-- JMP t (R171). -/
def execJmp (t : Index) (s : State) : Host.Outcome State Fault Refusal := .next (s.jump t)

/-- JZ t (R172). -/
def execJz (t : Index) (s : State) : Host.Outcome State Fault Refusal := .next (s.branch s.z t)

/-- JNZ t (R173). -/
def execJnz (t : Index) (s : State) : Host.Outcome State Fault Refusal := .next (s.branch (!s.z) t)

/-- LOOP t r: it tests the register and does not decrement it (R174). -/
def execLoop (t : Index) (r : Reg) (s : State) : Host.Outcome State Fault Refusal :=
  .next (s.branch (decide ((s.reg r).toNat ≠ 0)) t)

/-- HALT (R175; the pc stays at the HALT's own index, D18, log 15). -/
def execHalt (s : State) : Host.Outcome State Fault Refusal := .next s.halt

end Sys2Proof.Machine
end

