-- ==== Sys2Proof/Machine/DataMovement.lean ====
section
/-! DEFINITION. Data movement: MOV and STORE (41_data_movement.md R160, R161). -/

namespace Sys2Proof.Machine

/-- MOV d src: Z reflects the resolved source value (R160). -/
def execMov (d : Reg) (src : Source) (s : State) : Host.Outcome State Fault Refusal :=
  .next (s.produce d (s.resolve src))

/-- STORE r m: the only instruction that writes data memory; Z untouched (R161). -/
def execStore (r : Reg) (m : MemSrc) (s : State) : Host.Outcome State Fault Refusal :=
  .next (s.memWrite (s.effectiveAddress m) (s.reg r)).advance

end Sys2Proof.Machine
end

