-- ==== Sys2Proof/Machine/Display.lean ====
section
/-! DEFINITION. Display and sleep: DRAW, CLS, RENDER, CTS, SLP (44_display_sleep.md R200 to R205). -/

namespace Sys2Proof.Machine

/-- A control character for DRAW: 0x00..0x1F and 0x7F..0x9F (R201; D15, log 13). -/
def isControl (ch : Byte) : Bool := decide (ch.toNat ≤ 0x1F) || (decide (0x7F ≤ ch.toNat) && decide (ch.toNat ≤ 0x9F))

/-- `Normalize(ch)` (R201). -/
def normalizeChar (ch : Byte) : Byte := if isControl ch then 0x20#8 else ch

/-- The bounds-checked write of DRAW: dropped when x >= 80 or y >= 25 (R200). -/
def State.drawAt (s : State) (col row ch : Byte) : State :=
  if col.toNat < 80 ∧ row.toNat < 25 then s.dispWrite row.toNat col.toNat (normalizeChar ch) else s

/-- DRAW x y c: x the column, y the row (R200). -/
def execDraw (x y c : Source) (s : State) : Host.Outcome State Fault Refusal :=
  .next (s.drawAt (s.resolve x) (s.resolve y) (s.resolve c)).advance

/-- CLS (R202). -/
def execCls (s : State) : Host.Outcome State Fault Refusal := .next (s.dispFill 0x20#8).advance

/-- RENDER: the snapshot of all 25 x 80 cells (R203). -/
def execRender (s : State) : Host.Outcome State Fault Refusal := .next (s.emit (.render s.dispRead)).advance

/-- CTS: an event only (R204; D23). -/
def execCts (s : State) : Host.Outcome State Fault Refusal := .next (s.emit .clearTerminal).advance

/-- SLP ms: an event only, the model has no time (R205; D20, D24, log 17). -/
def execSlp (ms : Millis) (s : State) : Host.Outcome State Fault Refusal := .next (s.emit (.sleep ms)).advance

end Sys2Proof.Machine
end

