-- ==== Sys2Proof/Machine/HostAdapters.lean ====
section
/-! DEFINITION. The host's adapters as the spec describes them: the line classifier (R232), the key adapter (R233) and the text
the output device writes (R181, R182, R203, R229). -/

namespace Sys2Proof.Machine

/-- The answer to `Ask(ReadLine)` (R229). -/
inductive LineAnswer where
  | num (v : Byte)
  | char (c : Byte)
  | empty
  | invalid
  deriving DecidableEq, Repr

/-- A line without its terminator, LF or CR LF (R232 step 1). -/
def stripTerminator : List Char → List Char
  | [] => []
  | c :: rest =>
    if (c.toNat = 10 ∧ rest = []) ∨ (c.toNat = 13 ∧ rest = [Char.ofNat 10]) then [] else c :: stripTerminator rest

/-- Steps 2 to 5 of R232, on a line whose terminator is removed. -/
def classifyText (t : List Char) : LineAnswer :=
  match parseDecimal 255 t with
  | some v => .num (BitVec.ofNat 8 v)
  | none =>
    match t with
    | [] => .empty
    | [c] => if c.toNat ≤ 0xFF then .char (BitVec.ofNat 8 c.toNat) else .invalid
    | _ :: _ :: _ => .invalid

/-- The line-input adapter (R232; D12, log 11). End of the input stream is Empty. -/
def classifyLine : LineEvent → LineAnswer
  | .text t => classifyText (stripTerminator t)
  | .endOfStream => .empty

/-- The byte of a key event (R184, R233). -/
def keyByte : KeyEvent → Byte
  | .printable c => c
  | .enter => 10#8
  | .tab => 9#8
  | .backspace => 8#8
  | .escape => 27#8
  | .other => 0#8

/-- The key the host reports out of the pending ones: the only one, or the one at the host's pick (R233; C7, D13, log 3). -/
def chooseKey (k : KeyEvent) (more : List KeyEvent) (pick : Nat) : KeyEvent :=
  match more with
  | [] => k
  | _ :: _ => (k :: more).getD (pick % (more.length + 1)) k

/-- The key adapter's answer to a poll: `none` when no key is pending (R233). -/
def keyAnswer (pending : List KeyEvent) (pick : Nat) : Option Byte :=
  match pending with
  | [] => none
  | k :: more => some (keyByte (chooseKey k more pick))

/-- The newline of a newline-terminated write, nothing for an inline one (R180). -/
def newlineIf (nl : Bool) : List Char := if nl then Config.newlineText else []

/-- What the host writes for a character code: the ASCII character below 0x80 (G1 of 93), else its own choice (R182, log 18). -/
def characterText (v : Byte) : List Char :=
  if v.toNat < 0x80 then [Char.ofNat v.toNat] else Config.glyphText v

/-- What the host writes to the output stream for an event (R229, R181, R182, R203, R204; log 18). A sleep writes nothing (R205). -/
def eventText : Event → List Char
  | .print v nl => decimalText v.toNat ++ newlineIf nl
  | .printCh v nl => characterText v ++ newlineIf nl
  | .render grid => Config.borderedText grid
  | .clearTerminal => Config.clearText
  | .sleep _ => []

/-- The output stream: the events' text in the order the core emitted them (R231). -/
def outputText (events : List Event) : List Char := events.flatMap eventText

end Sys2Proof.Machine
end

