-- ==== Sys2Proof/Machine/Peripheral.lean ====
section
/-! DEFINITION. Output and peripherals: PRINT, PRINTCH, INPUT, INKEY, RAND (43_io_peripheral.md R180 to R185). -/

namespace Sys2Proof.Machine

/-- PRINT r (R181): one event. -/
def execPrint (r : Reg) (nl : Bool) (s : State) : Host.Outcome State Fault Refusal :=
  .next (s.emit (.print (s.reg r) nl)).advance

/-- PRINTCH r (R182): one event, control codes not normalised. -/
def execPrintch (r : Reg) (nl : Bool) (s : State) : Host.Outcome State Fault Refusal :=
  .next (s.emit (.printCh (s.reg r) nl)).advance

/-- What INPUT does with the host's answer (R183; Z for Num and Char is D11, log 10). An Invalid line faults and writes nothing of
the core; the host's line is used up all the same (log 21). -/
def State.acceptLine (s : State) (r : Reg) : LineAnswer → State
  | .num v => s.produce r v
  | .char c => s.produce r c
  | .empty => s.produce r 0x00#8
  | .invalid => s.raiseFault .invalidInput

/-- INPUT r (R183). A host that never answers leaves the core waiting, with no step (R236, I11, log 2). -/
def execInput (r : Reg) (s : State) : Host.Outcome State Fault Refusal :=
  match s.lineEvent with
  | some e => .next (s.takeLine.acceptLine r (classifyLine e))
  | none => .fault .waitsForLine

/-- The host's answer to a poll now (R184, R233). -/
def State.polledKey (s : State) : Option Byte := keyAnswer s.pendingKeys (Config.freeKeyPick s.inputs.draws)

/-- INKEY r (R184): no key gives 0. -/
def execInkey (r : Reg) (s : State) : Host.Outcome State Fault Refusal :=
  .next (s.drainKeys.produce r (s.polledKey.getD 0x00#8))

/-- RAND r (R185): Z unchanged (D14, C3, log 12). -/
def execRand (r : Reg) (s : State) : Host.Outcome State Fault Refusal :=
  .next (s.takeRandom.setReg r s.randomByte).advance

end Sys2Proof.Machine
end

