-- ==== Sys2Proof/Machine/Dispatch.lean ====
section
/-! DEFINITION. One arm per instruction: `Execute` of R93. -/

namespace Sys2Proof.Machine

def exec (i : Instr) (s : State) : Host.Outcome State Fault Refusal :=
  match i with
  | .mov d src => Sys2Proof.Machine.execMov d src s
  | .store r m => Sys2Proof.Machine.execStore r m s
  | .add d src => Sys2Proof.Machine.execAdd d src s
  | .sub d src => Sys2Proof.Machine.execSub d src s
  | .mul d src => Sys2Proof.Machine.execMul d src s
  | .div d src => Sys2Proof.Machine.execDiv d src s
  | .mod d src => Sys2Proof.Machine.execMod d src s
  | .mulh d a b => Sys2Proof.Machine.execMulh d a b s
  | .jmp t => Sys2Proof.Machine.execJmp t s
  | .jz t => Sys2Proof.Machine.execJz t s
  | .jnz t => Sys2Proof.Machine.execJnz t s
  | .loop t r => Sys2Proof.Machine.execLoop t r s
  | .print r nl => Sys2Proof.Machine.execPrint r nl s
  | .printch r nl => Sys2Proof.Machine.execPrintch r nl s
  | .input r => Sys2Proof.Machine.execInput r s
  | .inkey r => Sys2Proof.Machine.execInkey r s
  | .draw x y c => Sys2Proof.Machine.execDraw x y c s
  | .slp ms => Sys2Proof.Machine.execSlp ms s
  | .cmp r src => Sys2Proof.Machine.execCmp r src s
  | .rand r => Sys2Proof.Machine.execRand r s
  | .cls => Sys2Proof.Machine.execCls s
  | .cts => Sys2Proof.Machine.execCts s
  | .render => Sys2Proof.Machine.execRender s
  | .halt => Sys2Proof.Machine.execHalt s

end Sys2Proof.Machine
end

