-- ==== Sys2Proof/Machine/Step.lean ====
section
/-! DEFINITION. The control unit: one step of the core (30_encoding.md R92 to R95). -/

namespace Sys2Proof.Machine

/-- One step of the core (R93). HALTED and FAULTED have none (R262, log 6). -/
def step (s : State) : Host.Outcome State Fault Refusal :=
  match s.run with
  | .halted => .fault .haltedNoStep
  | .faulted c i => .fault (.faultedNoStep c i)
  | .running =>
    match s.fetch with
    | none => .next s.halt
    | some w =>
      match decode w with
      | none => .next (s.raiseFault .illegalInstruction)
      | some i => exec i s

/-- The state with the table word `w` of `nbits` bits where the next step fetches: the program store holds it at the pc, and the
run state is RUNNING (log 5). It stands for the host's load of a program (R261). -/
def State.withFetchWord (s : State) (nbits w : Nat) : State :=
  { s with prog := placeWord s.prog s.pc.toNat (BitVec.ofNat 48 (w % 2 ^ nbits)), run := .running }

end Sys2Proof.Machine
end

