-- ==== Sys2Proof/Safety.lean ====
section
/-! DEFINITION. The terms claims are stated in: what a state keeps of another, which instructions the spec lets write what,
and what a sound state of the core is. -/

namespace Sys2Proof.Machine

/-! ## Frames: what `t` keeps of `s` -/

/-- Every register reads as before. -/
def KeepsRegs (s t : State) : Prop := ∀ r, t.reg r = s.reg r

/-- Every register but `d` reads as before. -/
def KeepsRegsBut (d : Reg) (s t : State) : Prop := ∀ r, r ≠ d → t.reg r = s.reg r

/-- The zero flag is as before. -/
def KeepsZ (s t : State) : Prop := t.z = s.z

/-- Every byte of data memory reads as before: an address is 8 bits, so these are all of them (R56). -/
def KeepsMem (s t : State) : Prop := ∀ a : Byte, t.memRead a = s.memRead a

/-- Every byte of data memory but the one at `a` reads as before. -/
def KeepsMemBut (a : Byte) (s t : State) : Prop := ∀ b : Byte, b ≠ a → t.memRead b = s.memRead b

/-- Every cell of the display is as before. -/
def KeepsDisp (s t : State) : Prop := ∀ row col, row < 25 → col < 80 → t.cell row col = s.cell row col

/-- Every cell of the display but (row, col) is as before. -/
def KeepsDispBut (row col : Nat) (s t : State) : Prop :=
  ∀ row' col', row' < 25 → col' < 80 → (row', col') ≠ (row, col) → t.cell row' col' = s.cell row' col'

/-- The program store is as before. -/
def KeepsProg (s t : State) : Prop := t.prog = s.prog

/-- The run state is as before. -/
def KeepsRun (s t : State) : Prop := t.run = s.run

/-- The output trace is as before. -/
def KeepsOut (s t : State) : Prop := t.out = s.out

/-- The host's answers to come are as before: nothing was asked. -/
def KeepsInputs (s t : State) : Prop := t.inputs = s.inputs

/-- Program store, run state, output trace and the host's answers are as before. -/
structure KeepsSystem (s t : State) : Prop where
  prog : KeepsProg s t
  run : KeepsRun s t
  out : KeepsOut s t
  inputs : KeepsInputs s t

/-! ## Which instructions may write what -/

/-- The register an instruction writes: the list of R21. -/
def destReg : Instr → Option Reg
  | .mov d _ => some d
  | .store _ _ => none
  | .add d _ => some d
  | .sub d _ => some d
  | .mul d _ => some d
  | .div d _ => some d
  | .mod d _ => some d
  | .mulh d _ _ => some d
  | .jmp _ => none
  | .jz _ => none
  | .jnz _ => none
  | .loop _ _ => none
  | .print _ _ => none
  | .printch _ _ => none
  | .input r => some r
  | .inkey r => some r
  | .draw _ _ _ => none
  | .slp _ => none
  | .cmp _ _ => none
  | .rand r => some r
  | .cls => none
  | .cts => none
  | .render => none
  | .halt => none

/-- Whether an instruction writes Z: the table of R26. -/
def writesZ : Instr → Bool
  | .mov _ _ => true
  | .store _ _ => false
  | .add _ _ => true
  | .sub _ _ => true
  | .mul _ _ => true
  | .div _ _ => true
  | .mod _ _ => true
  | .mulh _ _ _ => true
  | .jmp _ => false
  | .jz _ => false
  | .jnz _ => false
  | .loop _ _ => false
  | .print _ _ => false
  | .printch _ _ => false
  | .input _ => true
  | .inkey _ => true
  | .draw _ _ _ => false
  | .slp _ => false
  | .cmp _ _ => true
  | .rand _ => false
  | .cls => false
  | .cts => false
  | .render => false
  | .halt => false

/-- Whether an instruction sets the pc itself, or is HALT: the classes of R94. -/
def setsPc : Instr → Bool
  | .mov _ _ => false
  | .store _ _ => false
  | .add _ _ => false
  | .sub _ _ => false
  | .mul _ _ => false
  | .div _ _ => false
  | .mod _ _ => false
  | .mulh _ _ _ => false
  | .jmp _ => true
  | .jz _ => true
  | .jnz _ => true
  | .loop _ _ => true
  | .print _ _ => false
  | .printch _ _ => false
  | .input _ => false
  | .inkey _ => false
  | .draw _ _ _ => false
  | .slp _ => false
  | .cmp _ _ => false
  | .rand _ => false
  | .cls => false
  | .cts => false
  | .render => false
  | .halt => true

/-- The event an instruction emits in a state (R31). -/
def emittedEvent (s : State) : Instr → Option Event
  | .mov _ _ => none
  | .store _ _ => none
  | .add _ _ => none
  | .sub _ _ => none
  | .mul _ _ => none
  | .div _ _ => none
  | .mod _ _ => none
  | .mulh _ _ _ => none
  | .jmp _ => none
  | .jz _ => none
  | .jnz _ => none
  | .loop _ _ => none
  | .print r nl => some (.print (s.reg r) nl)
  | .printch r nl => some (.printCh (s.reg r) nl)
  | .input _ => none
  | .inkey _ => none
  | .draw _ _ _ => none
  | .slp ms => some (.sleep ms)
  | .cmp _ _ => none
  | .rand _ => none
  | .cls => none
  | .cts => some .clearTerminal
  | .render => some (.render s.dispRead)
  | .halt => none

/-- The byte INPUT stores for an answer; an Invalid one has none (R183). -/
def answerByte : LineAnswer → Option Byte
  | .num v => some v
  | .char c => some c
  | .empty => some 0x00#8
  | .invalid => none

/-! ## Sound states -/

/-- A snapshot of the display: 25 rows of 80 cells, none a control character (R29, R203). -/
def gridWf (grid : List (List Byte)) : Bool :=
  decide (grid.length = 25) && grid.all (fun row => decide (row.length = 80) && row.all (fun ch => !isControl ch))

/-- An event the core can have emitted. -/
def eventWf : Event → Bool
  | .print _ _ => true
  | .printCh _ _ => true
  | .render grid => gridWf grid
  | .clearTerminal => true
  | .sleep _ => true

/-- The instruction at the pc is `i` (R92). -/
def State.atPc (s : State) (i : Instr) : Prop := ∃ w, s.fetch = some w ∧ decode w = some i

/-- The run state is one the spec gives a reason for: HALTED at a HALT or past the program (R95); FAULTED at the pc, with a cause
that the instruction there and the operands still show (R221, R222). -/
def State.RunJustified (s : State) : Prop :=
  match s.run with
  | .running => True
  | .halted => s.prog.length ≤ s.pc.toNat ∨ s.atPc .halt
  | .faulted .divByZero i =>
    i = s.pc ∧ ∃ d src, (s.atPc (.div d src) ∨ s.atPc (.mod d src)) ∧ (s.resolve src).toNat = 0
  | .faulted .invalidInput i => i = s.pc ∧ ∃ r, s.atPc (.input r)
  | .faulted .illegalInstruction i => i = s.pc ∧ ∃ w, s.fetch = some w ∧ legalWord w = false

/-- What every state of a run satisfies. -/
structure State.Inv (s : State) : Prop where
  /-- Data memory keeps its canonical form and its 256 cells (R27, R56). -/
  mem : Memory.wf s.mem = true
  /-- The display keeps its canonical form and its 25 x 80 cells (R29). -/
  disp : Grid.wf s.disp = true
  /-- No display cell holds a control code (R29, R201). -/
  printable : ∀ row col, row < 25 → col < 80 → isControl (s.cell row col) = false
  /-- The program has at most 65535 instructions (R23). -/
  length : legalLength s.prog = true
  /-- Every snapshot sent to the host has 25 rows of 80 printable cells (R203). -/
  out : s.out.all eventWf = true
  /-- The run state has its reason (R95, R222). -/
  run : s.RunJustified

end Sys2Proof.Machine
end

