-- ==== Sys2Proof/Certificates/Slice0/Obligations.lean ====
section
/-! DEFINITION. The statements about the model, for the provers. Each names the rules of spec/ it comes from. -/

open Sys2Proof Sys2Proof.Machine

/-! ## Encoding (30_encoding.md) -/

/-- The worked encodings of R121: source text, instruction, word. The numbers are the spec's own encoding (D1 to D5, log 7). -/
def Sys2Proof.workedEncodings : List (String × Instr × Word) := [
  ("MOV A 5", .mov .A (.lit 5#8), 0x010010500000#48),
  ("MOV B [10]", .mov .B (.mem (.abs 10#8)), 0x012020A00000#48),
  ("MOV C [D]", .mov .C (.mem (.ind .D)), 0x014030300000#48),
  ("STORE A [B]", .store .A (.ind .B), 0x020030100000#48),
  ("STORE E [255]", .store .E (.abs 255#8), 0x02802FF00000#48),
  ("ADD A B", .add .A (.reg .B), 0x030000100000#48),
  ("MULH C A B", .mulh .C .A .B, 0x084080000000#48),
  ("JMP 3", .jmp 3#16, 0x090000000003#48),
  ("LOOP 2 B", .loop 2#16 .B, 0x0C2000000002#48),
  ("PRINT A", .print .A true, 0x0D0000000000#48),
  ("PRINT A -N", .print .A false, 0x0D0040000000#48),
  ("PRINTCH E", .printch .E true, 0x0E8000000000#48),
  ("DRAW 79 24 'X'", .draw (.lit 79#8) (.lit 24#8) (.lit 88#8), 0x110014F46158#48),
  ("DRAW A B [C]", .draw (.reg .A) (.reg .B) (.mem (.ind .C)), 0x110000000702#48),
  ("SLP 1000", .slp 1000#32, 0x1200000003E8#48),
  ("CMP E 88", .cmp .E (.lit 88#8), 0x138015800000#48),
  ("HALT", .halt, 0x180000000000#48)]

/-- R121: each worked word decodes to its instruction, and the instruction encodes to the word (D1 to D5, log 7). -/
def Obligations.WorkedEncodingsDecode : Prop :=
  ∀ p ∈ workedEncodings, decode p.2.2 = some p.2.1 ∧ encode p.2.1 = p.2.2

/-- R91: decoding the word of any instruction gives the instruction back, and that word is legal by R87. -/
def Obligations.DecodeInvertsEncode : Prop :=
  ∀ i : Instr, decode (encode i) = some i ∧ legalWord (encode i) = true

/-- R91: a word that decodes to an instruction is that instruction's word: no bit of a word is ignored. -/
def Obligations.EncodeInvertsDecode : Prop :=
  ∀ (w : Word) (i : Instr), decode w = some i → encode i = w

/-- R87, R91: the decoder accepts exactly the words that the five checks of R87 over the opcode map of R86 call legal. -/
def Obligations.DecodesExactlyTheLegalWords : Prop :=
  ∀ w : Word, (decode w).isSome = legalWord w

/-! ## The control unit (30_encoding.md R92 to R95, 60_exceptions.md R220 to R222, 70_reset_and_hazards.md) -/

/-- R92, R93: a running core with a word at the pc that decodes to `i` does, in one step, what `i` does in that state. -/
def Obligations.StepRunsDecodedInstruction : Prop :=
  ∀ (s : State) (w : Word) (i : Instr),
    s.run = .running → s.prog[s.pc.toNat]? = some w → decode w = some i → step s = exec i s

/-- R88: an illegal word faults, recorded with its index, and changes nothing else (D5, D19, log 7, log 16). -/
def Obligations.IllegalWordFaults : Prop :=
  ∀ (s : State) (w : Word),
    s.run = .running → s.prog[s.pc.toNat]? = some w → legalWord w = false →
      step s = .next { s with run := .faulted .illegalInstruction s.pc }

/-- R95: HALT ends the run in HALTED, and so does a step that begins with `pc >= L`, which changes nothing else; no other step does. A
fault ends it in FAULTED. HALTED and FAULTED have no step. -/
def Obligations.RunEndsByHaltEndOfProgramOrFault : Prop :=
  (∀ s : State, ∃ t, exec .halt s = .next t ∧ t.run = .halted) ∧
    (∀ s : State, s.run = .running → s.prog.length ≤ s.pc.toNat → step s = .next { s with run := .halted }) ∧
    (∀ s t : State, step s = .next t → t.run = .halted → s.prog.length ≤ s.pc.toNat ∨ s.atPc .halt) ∧
    (∀ (s : State) (c : Cause), ∃ k, (s.raiseFault c).run = .faulted c k) ∧
    (∀ s : State, (s.run = .halted ∨ ∃ c k, s.run = .faulted c k) → ∀ t, step s ≠ .next t)

/-- R30, R262: HALTED and FAULTED have no step. -/
def Obligations.FinalStatesHaveNoStep : Prop :=
  ∀ s : State,
    (s.run = .halted → step s = .fault .haltedNoStep) ∧
      (∀ c i, s.run = .faulted c i → step s = .fault (.faultedNoStep c i))

/-- R221, R236, R262: a running core always has a step, unless INPUT waits for a host that never answers; it refuses nothing. That
the wait is the outcome waitsForLine is the model's choice (log 2). -/
def Obligations.RunningCoreStepsUnlessInputWaits : Prop :=
  ∀ s : State, s.run = .running →
    (∃ t, step s = .next t) ∨
      (step s = .fault .waitsForLine ∧ (∃ r, s.atPc (.input r)) ∧ s.inputs.lines = [] ∧ s.inputs.lineSilent = true)

/-- R24, R94: every instruction but JMP, JZ, JNZ, LOOP and HALT, when it does not fault, sets `pc <- pc + 1`; in a program of at
most 65535 words that never wraps (D6, log 14). -/
def Obligations.SequentialInstructionsAdvancePc : Prop :=
  ∀ (i : Instr) (s t : State), s.run = .running → setsPc i = false → exec i s = .next t → t.run = .running →
    t.pc = s.pc + 1#16 ∧
      (legalLength s.prog = true → s.fetch.isSome = true → t.pc.toNat = s.pc.toNat + 1)

/-- R21: an instruction changes no register but the one R21 lists for it (D9 for MULH, log 8). -/
def Obligations.OnlyListedRegistersAreWritten : Prop :=
  ∀ (i : Instr) (s t : State), exec i s = .next t → ∀ r, destReg i ≠ some r → t.reg r = s.reg r

/-- R25, R26, R265: instructions outside the Z writers of R26 keep Z, and a Z writer that does not fault overwrites Z whole: its
next state does not depend on the old Z (RAND keeps Z by D14, log 12). -/
def Obligations.ZeroFlagIsOverwrittenNeverAccumulated : Prop :=
  ∀ (i : Instr) (s t : State), exec i s = .next t →
    (writesZ i = false → t.z = s.z) ∧
      (writesZ i = true → t.run = .running → ∀ b, exec i { s with z := b } = .next t)

/-- R31: an instruction appends to the output trace exactly the event it emits, or nothing (D24, log 17). -/
def Obligations.OutputGrowsByTheEmittedEvent : Prop :=
  ∀ (i : Instr) (s t : State), exec i s = .next t → t.out = s.out ++ (emittedEvent s i).toList

/-- R29, R57: instructions other than DRAW and CLS keep every display cell. -/
def Obligations.OnlyDrawAndClsWriteTheDisplay : Prop :=
  ∀ (i : Instr) (s t : State), exec i s = .next t → (∀ x y c, i ≠ .draw x y c) → i ≠ .cls → KeepsDisp s t

/-- R28, R66: no step writes the program store. -/
def Obligations.ProgramStoreIsImmutable : Prop :=
  ∀ s t : State, step s = .next t → t.prog = s.prog

/-- R221: executing an instruction faults only as DIV or MOD with a divisor that resolves to 0, or as INPUT with an Invalid line. -/
def Obligations.OnlyListedConditionsFault : Prop :=
  ∀ (i : Instr) (s t : State) (c : Cause) (k : Index), s.run = .running → exec i s = .next t → t.run = .faulted c k →
    (c = .divByZero ∧ ∃ d src, (i = .div d src ∨ i = .mod d src) ∧ (s.resolve src).toNat = 0) ∨
      (c = .invalidInput ∧ ∃ r e, i = .input r ∧ s.lineEvent = some e ∧ classifyLine e = .invalid)

/-- R222: a step that faults writes no register, Z, memory cell, display cell, output event or program word; the pc stays, and the
record holds it. What it does to the host's answers is the model's choice (log 21) and is not said here. -/
def Obligations.FaultsArePrecise : Prop :=
  ∀ (s t : State) (c : Cause) (k : Index), step s = .next t → t.run = .faulted c k →
    k = s.pc ∧ t.pc = s.pc ∧ KeepsRegs s t ∧ KeepsZ s t ∧ KeepsMem s t ∧ KeepsDisp s t ∧ KeepsProg s t ∧ KeepsOut s t

/-- R95, R175: a step ends the run in HALTED only past the program or at a HALT, and changes only the run state (D18, log 15). -/
def Obligations.OnlyHaltStopsTheRunEarly : Prop :=
  ∀ s t : State, step s = .next t → t.run = .halted →
    (s.prog.length ≤ s.pc.toNat ∨ s.atPc .halt) ∧ t = { s with run := .halted }

/-- R31, R57: nothing reads the output trace: with any other trace the step is the same, and appends the same events. -/
def Obligations.OutputTraceIsNeverRead : Prop :=
  ∀ s t : State, step s = .next t →
    ∃ es, t.out = s.out ++ es ∧ ∀ o, step { s with out := o } = .next { t with out := o ++ es }

/-! ## Reset and the invariant (10_state.md R34, 70_reset_and_hazards.md R260, R261) -/

/-- R34, R260: the state at reset. That registers, memory and Z are zero is the spec's own decision (D8, log 4); that no program is
loaded is the model's (log 5). -/
def Obligations.ResetState : Prop :=
  (∀ r, State.reset.reg r = 0x00#8) ∧ State.reset.pc = 0#16 ∧ State.reset.z = false ∧
    (∀ a : Byte, State.reset.memRead a = 0x00#8) ∧
    (∀ row col, row < 25 → col < 80 → State.reset.cell row col = 0x20#8) ∧
    State.reset.run = .running ∧ State.reset.out = [] ∧ State.reset.prog = []

/-- R260, R261, I19: the loader takes at most 65535 words (D6, log 14) and starts the core from index 0 with the launch parameters;
it refuses a longer program. -/
def Obligations.LoaderStartsAtIndexZero : Prop :=
  ∀ (regs : Regs) (mem : Memory) (z : Bool) (image : List Word) (inputs : Inputs),
    (image.length ≤ 65535 →
      ∃ s, loadProgram regs mem z image inputs = .ok s ∧ s.prog = image ∧ s.pc = 0#16 ∧ s.run = .running ∧ s.out = [] ∧
        s.regs = regs ∧ s.mem = mem ∧ s.z = z ∧ ∀ row col, row < 25 → col < 80 → s.cell row col = 0x20#8) ∧
      (65535 < image.length → loadProgram regs mem z image inputs = .error .programTooLong)

/-- The invariant holds at reset. -/
def Obligations.ResetSatisfiesInvariant : Prop := State.reset.Inv

/-- The invariant holds in every state the loader starts a run in, with any registers, any canonical memory and any Z. -/
def Obligations.LoadedStateSatisfiesInvariant : Prop :=
  ∀ (regs : Regs) (mem : Memory) (z : Bool) (image : List Word) (inputs : Inputs) (s : State),
    Memory.wf mem = true → loadProgram regs mem z image inputs = .ok s → s.Inv

/-- R27, R29, R95, R203, R222: every step keeps the invariant: canonical memory and display, no control code in a display cell, a
legal program length, snapshots of 25 x 80 printable cells, and a run state that the instruction at the pc justifies. Its
canonical form is the model's (log 20), its control set the spec's decision D15 (log 13). -/
def Obligations.StepKeepsInvariant : Prop :=
  ∀ s t : State, s.Inv → step s = .next t → t.Inv

/-! ## Operands, memory, display (20_memory.md) -/

/-- R51: the operand resolver. -/
def Obligations.ResolverYieldsTheFourForms : Prop :=
  ∀ (s : State) (v a : Byte) (r : Reg),
    s.resolve (.lit v) = v ∧ s.resolve (.reg r) = s.reg r ∧ s.resolve (.mem (.abs a)) = s.memRead a ∧
      s.resolve (.mem (.ind r)) = s.memRead (s.reg r)

/-- R55: a write sets its cell and has no other effect, and no instruction but STORE changes a byte of data memory. The canonical
form that the read back needs is the model's invariant (log 20). -/
def Obligations.MemoryWriteSetsOneCell : Prop :=
  (∀ (s : State) (a v : Byte),
    (Memory.wf s.mem = true → (s.memWrite a v).memRead a = v ∧ Memory.wf (s.memWrite a v).mem = true) ∧
      KeepsMemBut a s (s.memWrite a v) ∧ KeepsRegs s (s.memWrite a v) ∧ KeepsZ s (s.memWrite a v) ∧
      (s.memWrite a v).pc = s.pc ∧ KeepsDisp s (s.memWrite a v) ∧ KeepsSystem s (s.memWrite a v)) ∧
    (∀ (i : Instr) (s t : State), exec i s = .next t → (∀ r m, i ≠ .store r m) → KeepsMem s t)

/-- R58: DispWrite sets its cell, DispFill every cell, DispRead returns the whole grid. The canonical form that the read back needs is
the model's invariant (log 20). -/
def Obligations.DisplayPrimitives : Prop :=
  ∀ (s : State) (ch : Byte),
    (∀ row col, row < 25 → col < 80 →
      (Grid.wf s.disp = true → (s.dispWrite row col ch).cell row col = ch) ∧
        KeepsDispBut row col s (s.dispWrite row col ch)) ∧
      (∀ row col, row < 25 → col < 80 → (s.dispFill ch).cell row col = ch) ∧
      s.dispRead.length = 25 ∧
      (∀ row, row < 25 → ∃ cells, s.dispRead[row]? = some cells ∧ cells.length = 80 ∧
        ∀ col, col < 80 → cells[col]? = some (s.cell row col))

/-! ## Data movement (41_data_movement.md) -/

/-- R160: MOV; its word is the spec's own encoding (D1 to D5, log 7). -/
def Obligations.MovLoadsTheResolvedSource : Prop :=
  ∀ (d : Reg) (src : Source) (s : State),
    encode (.mov d src) = wordFRS 0x01#8 d src ∧
      ∃ t, exec (.mov d src) s = .next t ∧ t.reg d = s.resolve src ∧ t.z = decide ((s.resolve src).toNat = 0) ∧
        t.pc = s.pc + 1#16 ∧ KeepsRegsBut d s t ∧ KeepsMem s t ∧ KeepsDisp s t ∧ KeepsSystem s t

/-- R161: STORE; its word is the spec's own encoding (D1 to D5, log 7). The read back of the stored cell needs the canonical form of memory, an invariant (log 20). -/
def Obligations.StoreWritesOneCell : Prop :=
  ∀ (r : Reg) (m : MemSrc) (s : State),
    encode (.store r m) = wordFRM 0x02#8 r m ∧
      ∃ t, exec (.store r m) s = .next t ∧
        (Memory.wf s.mem = true → t.memRead (s.effectiveAddress m) = s.reg r) ∧
        KeepsMemBut (s.effectiveAddress m) s t ∧ KeepsZ s t ∧ t.pc = s.pc + 1#16 ∧ KeepsRegs s t ∧ KeepsDisp s t ∧
        KeepsSystem s t

/-! ## ALU (40_alu.md) -/

/-- R141: ADD; its word is the spec's own encoding (D1 to D5, log 7). -/
def Obligations.AddWraps : Prop :=
  ∀ (d : Reg) (src : Source) (s : State),
    encode (.add d src) = wordFRS 0x03#8 d src ∧
      ∃ t, exec (.add d src) s = .next t ∧
        (t.reg d).toNat = ((s.reg d).toNat + (s.resolve src).toNat) % 256 ∧ t.z = decide ((t.reg d).toNat = 0) ∧
        t.pc = s.pc + 1#16 ∧ KeepsRegsBut d s t ∧ KeepsMem s t ∧ KeepsDisp s t ∧ KeepsSystem s t

/-- R142: SUB; its word is the spec's own encoding (D1 to D5, log 7). -/
def Obligations.SubWraps : Prop :=
  ∀ (d : Reg) (src : Source) (s : State),
    encode (.sub d src) = wordFRS 0x04#8 d src ∧
      ∃ t, exec (.sub d src) s = .next t ∧
        ((t.reg d).toNat : Int) = (((s.reg d).toNat : Int) - ((s.resolve src).toNat : Int)) % 256 ∧
        t.z = decide ((t.reg d).toNat = 0) ∧
        t.pc = s.pc + 1#16 ∧ KeepsRegsBut d s t ∧ KeepsMem s t ∧ KeepsDisp s t ∧ KeepsSystem s t

/-- R143: MUL; its word is the spec's own encoding (D1 to D5, log 7). -/
def Obligations.MulKeepsTheLowByte : Prop :=
  ∀ (d : Reg) (src : Source) (s : State),
    encode (.mul d src) = wordFRS 0x05#8 d src ∧
      ∃ t, exec (.mul d src) s = .next t ∧
        (t.reg d).toNat = ((s.reg d).toNat * (s.resolve src).toNat) % 256 ∧ t.z = decide ((t.reg d).toNat = 0) ∧
        t.pc = s.pc + 1#16 ∧ KeepsRegsBut d s t ∧ KeepsMem s t ∧ KeepsDisp s t ∧ KeepsSystem s t

/-- R144: DIV with a nonzero divisor; truncation is the spec's own decision (D10, log 9). -/
def Obligations.DivGivesTheQuotient : Prop :=
  ∀ (d : Reg) (src : Source) (s : State), (s.resolve src).toNat ≠ 0 →
    ∃ t, exec (.div d src) s = .next t ∧ (t.reg d).toNat = (s.reg d).toNat / (s.resolve src).toNat ∧
      t.z = decide ((t.reg d).toNat = 0) ∧
      t.pc = s.pc + 1#16 ∧ KeepsRegsBut d s t ∧ KeepsMem s t ∧ KeepsDisp s t ∧ KeepsSystem s t

/-- R145: MOD with a nonzero divisor; the remainder is the one of R144's quotient (D10, log 9). -/
def Obligations.ModGivesTheRemainder : Prop :=
  ∀ (d : Reg) (src : Source) (s : State), (s.resolve src).toNat ≠ 0 →
    ∃ t, exec (.mod d src) s = .next t ∧ (t.reg d).toNat = (s.reg d).toNat % (s.resolve src).toNat ∧
      t.z = decide ((t.reg d).toNat = 0) ∧
      t.pc = s.pc + 1#16 ∧ KeepsRegsBut d s t ∧ KeepsMem s t ∧ KeepsDisp s t ∧ KeepsSystem s t

/-- R144, R145, R220: DIV and MOD with a divisor that resolves to 0 take the fault DIV_BY_ZERO, whatever the operand kind, and write
nothing else (the record is D19, log 16). -/
def Obligations.DivisionByZeroFaults : Prop :=
  ∀ (d : Reg) (src : Source) (s : State), (s.resolve src).toNat = 0 →
    exec (.div d src) s = .next { s with run := .faulted .divByZero s.pc } ∧
      exec (.mod d src) s = .next { s with run := .faulted .divByZero s.pc }

/-- R146: MULH; that the destination comes first is the spec's own decision (D9, log 8). -/
def Obligations.MulhGivesTheHighByte : Prop :=
  ∀ (d a b : Reg) (s : State),
    ∃ t, exec (.mulh d a b) s = .next t ∧ (t.reg d).toNat = (s.reg a).toNat * (s.reg b).toNat / 256 ∧
      t.z = decide ((t.reg d).toNat = 0) ∧
      t.pc = s.pc + 1#16 ∧ KeepsRegsBut d s t ∧ KeepsMem s t ∧ KeepsDisp s t ∧ KeepsSystem s t

/-- R143, R146: MULH and MUL of the same factors give the two bytes of the exact product (D9, log 8). -/
def Obligations.MulhAndMulGiveTheWholeProduct : Prop :=
  ∀ (d a b : Reg) (s t u : State), exec (.mulh d a b) s = .next t → exec (.mul a (.reg b)) s = .next u →
    256 * (t.reg d).toNat + (u.reg a).toNat = (s.reg a).toNat * (s.reg b).toNat

/-- R149: quotient and remainder put the dividend together again, and the remainder is below the divisor (D10, log 9). -/
def Obligations.DivAndModRebuildTheDividend : Prop :=
  ∀ (d : Reg) (src : Source) (s t u : State), (s.resolve src).toNat ≠ 0 →
    exec (.div d src) s = .next t → exec (.mod d src) s = .next u →
      (t.reg d).toNat * (s.resolve src).toNat + (u.reg d).toNat = (s.reg d).toNat ∧
        (u.reg d).toNat < (s.resolve src).toNat

/-- R147: CMP; its word is the spec's own encoding (D1 to D5, log 7). -/
def Obligations.CmpSetsZFromEquality : Prop :=
  ∀ (r : Reg) (src : Source) (s : State),
    encode (.cmp r src) = wordFRS 0x13#8 r src ∧
      ∃ t, exec (.cmp r src) s = .next t ∧ (t.z = true ↔ s.reg r = s.resolve src) ∧
        t.pc = s.pc + 1#16 ∧ KeepsRegs s t ∧ KeepsMem s t ∧ KeepsDisp s t ∧ KeepsSystem s t

/-! ## Control transfer (42_control_transfer.md) -/

/-- R171: JMP; its word is the spec's own encoding (D1 to D5, log 7). -/
def Obligations.JmpSetsThePc : Prop :=
  ∀ (a : Index) (s : State),
    encode (.jmp a) = wordFJ 0x09#8 a ∧
      ∃ t, exec (.jmp a) s = .next t ∧ t.pc = a ∧
        KeepsZ s t ∧ KeepsRegs s t ∧ KeepsMem s t ∧ KeepsDisp s t ∧ KeepsSystem s t

/-- R172, R173: JZ and JNZ; their words are the spec's own encoding (D1 to D5, log 7). -/
def Obligations.JzAndJnzTestTheZeroFlag : Prop :=
  ∀ (a : Index) (s : State),
    encode (.jz a) = wordFJ 0x0A#8 a ∧ encode (.jnz a) = wordFJ 0x0B#8 a ∧
      (∃ t, exec (.jz a) s = .next t ∧ t.pc = (if s.z = true then a else s.pc + 1#16) ∧
        KeepsZ s t ∧ KeepsRegs s t ∧ KeepsMem s t ∧ KeepsDisp s t ∧ KeepsSystem s t) ∧
      (∃ t, exec (.jnz a) s = .next t ∧ t.pc = (if s.z = false then a else s.pc + 1#16) ∧
        KeepsZ s t ∧ KeepsRegs s t ∧ KeepsMem s t ∧ KeepsDisp s t ∧ KeepsSystem s t)

/-- R174: LOOP, which decrements nothing; its word is the spec's own encoding (D1 to D5, log 7). -/
def Obligations.LoopTestsItsRegister : Prop :=
  ∀ (a : Index) (r : Reg) (s : State),
    encode (.loop a r) = wordFJR 0x0C#8 a r ∧
      ∃ t, exec (.loop a r) s = .next t ∧ t.pc = (if (s.reg r).toNat ≠ 0 then a else s.pc + 1#16) ∧
        KeepsZ s t ∧ KeepsRegs s t ∧ KeepsMem s t ∧ KeepsDisp s t ∧ KeepsSystem s t

/-- R175: HALT; that the pc stays is the spec's own decision (D18, log 15). -/
def Obligations.HaltEndsTheRun : Prop :=
  ∀ s : State,
    ∃ t, exec .halt s = .next t ∧ t.run = .halted ∧ t.pc = s.pc ∧
      KeepsZ s t ∧ KeepsRegs s t ∧ KeepsMem s t ∧ KeepsDisp s t ∧ KeepsProg s t ∧ KeepsOut s t ∧ KeepsInputs s t

/-! ## Output and peripherals (43_io_peripheral.md, 60_exceptions.md) -/

/-- R181, R182: PRINT and PRINTCH emit the register's byte with the newline bit, and change nothing else (D24, log 17). -/
def Obligations.PrintAndPrintchEmitTheByte : Prop :=
  ∀ (r : Reg) (nl : Bool) (s : State),
    (∃ t, exec (.print r nl) s = .next t ∧ t.out = s.out ++ [.print (s.reg r) nl] ∧ t.pc = s.pc + 1#16 ∧
      KeepsZ s t ∧ KeepsRegs s t ∧ KeepsMem s t ∧ KeepsDisp s t ∧ KeepsProg s t ∧ KeepsRun s t ∧ KeepsInputs s t) ∧
    (∃ t, exec (.printch r nl) s = .next t ∧ t.out = s.out ++ [.printCh (s.reg r) nl] ∧ t.pc = s.pc + 1#16 ∧
      KeepsZ s t ∧ KeepsRegs s t ∧ KeepsMem s t ∧ KeepsDisp s t ∧ KeepsProg s t ∧ KeepsRun s t ∧ KeepsInputs s t)

/-- R181, R232: the decimal text PRINT shows, with any leading zeros and either terminator or none, is read by INPUT's adapter as the
number printed (D12, D17, log 11, log 18). -/
def Obligations.PrintedNumbersReadBack : Prop :=
  ∀ (v : Byte) (zeros : Nat) (terminator : List Char), terminator = [] ∨ terminator = ['\n'] ∨ terminator = ['\r', '\n'] →
    classifyLine (.text (List.replicate zeros '0' ++ decimalText v.toNat ++ terminator)) = .num v

/-- R232: the line adapter removes one terminator, LF or CR LF, and then sorts the rest into Num, Char, Empty and Invalid (D12, log
11). -/
def Obligations.LineAdapterClassifies : Prop :=
  (∀ t : List Char, t ≠ [] → t.all isDigitChar = true → digitsValue 0 t ≤ 255 →
    classifyText t = .num (BitVec.ofNat 8 (digitsValue 0 t))) ∧
  (∀ c : Char, isDigitChar c = false →
    classifyText [c] = if c.toNat ≤ 0xFF then .char (BitVec.ofNat 8 c.toNat) else .invalid) ∧
  classifyText [] = .empty ∧
  (∀ t : List Char, 2 ≤ t.length → (t.all isDigitChar = false ∨ 255 < digitsValue 0 t) → classifyText t = .invalid) ∧
  (∀ t : List Char, t.getLast? ≠ some '\n' → classifyLine (.text t) = classifyText t) ∧
  (∀ t : List Char, t.getLast? ≠ some '\r' → classifyLine (.text (t ++ ['\n'])) = classifyText t) ∧
  (∀ t : List Char, classifyLine (.text (t ++ ['\r', '\n'])) = classifyText t) ∧
  classifyLine .endOfStream = .empty

/-- R183: INPUT with a Num, Char or Empty answer stores its byte and sets Z from it (Z for Num and Char is the spec's own decision D11,
log 10); the line is used up and no key or random answer is. The answer is any the host may give (log 1). -/
def Obligations.InputStoresTheAnswer : Prop :=
  ∀ (r : Reg) (s : State) (e : LineEvent) (v : Byte), s.lineEvent = some e → answerByte (classifyLine e) = some v →
    ∃ t, exec (.input r) s = .next t ∧ t.reg r = v ∧ t.z = decide (v.toNat = 0) ∧ t.pc = s.pc + 1#16 ∧
      t.inputs.lines = s.inputs.lines.tail ∧ t.inputs.keys = s.inputs.keys ∧ t.inputs.rands = s.inputs.rands ∧
      KeepsRegsBut r s t ∧ KeepsMem s t ∧ KeepsDisp s t ∧ KeepsProg s t ∧ KeepsRun s t ∧ KeepsOut s t

/-- R183, R221, R222: INPUT with an Invalid line takes the fault INVALID_INPUT and writes nothing else of the core (the record is D19,
log 16). -/
def Obligations.InputFaultsOnAnInvalidLine : Prop :=
  ∀ (r : Reg) (s : State) (e : LineEvent), s.lineEvent = some e → classifyLine e = .invalid →
    ∃ t, exec (.input r) s = .next t ∧ t.run = .faulted .invalidInput s.pc ∧ t.pc = s.pc ∧
      KeepsRegs s t ∧ KeepsZ s t ∧ KeepsMem s t ∧ KeepsDisp s t ∧ KeepsProg s t ∧ KeepsOut s t

/-- R236: INPUT with a host that never answers takes no step, and only then; the outcome's name and the flag are the model's
(log 2). -/
def Obligations.InputWaitsForASilentHost : Prop :=
  ∀ (r : Reg) (s : State),
    exec (.input r) s = .fault .waitsForLine ↔ s.inputs.lines = [] ∧ s.inputs.lineSilent = true

/-- R184, R233: INKEY stores 0 with Z true when no key is pending, else the byte of one of the pending keys, whichever the host reports
(D13, log 3); the poll drains the queue. -/
def Obligations.InkeyReportsAPendingKey : Prop :=
  (∀ c, keyByte (.printable c) = c) ∧ keyByte .enter = 10#8 ∧ keyByte .tab = 9#8 ∧ keyByte .backspace = 8#8 ∧
    keyByte .escape = 27#8 ∧ keyByte .other = 0#8 ∧
    ∀ (r : Reg) (s : State),
      ∃ t, exec (.inkey r) s = .next t ∧
        (s.pendingKeys = [] → t.reg r = 0#8) ∧
        (s.pendingKeys ≠ [] → ∃ k ∈ s.pendingKeys, t.reg r = keyByte k) ∧
        t.z = decide ((t.reg r).toNat = 0) ∧ t.pc = s.pc + 1#16 ∧
        t.inputs.keys = s.inputs.keys.tail ∧ t.inputs.lines = s.inputs.lines ∧ t.inputs.rands = s.inputs.rands ∧
        KeepsRegsBut r s t ∧ KeepsMem s t ∧ KeepsDisp s t ∧ KeepsProg s t ∧ KeepsRun s t ∧ KeepsOut s t

/-- R185: RAND stores the random source's byte, whatever it is, and keeps Z (D14, C3, log 12). -/
def Obligations.RandStoresAByteAndKeepsZ : Prop :=
  ∀ (r : Reg) (s : State),
    ∃ t, exec (.rand r) s = .next t ∧ t.reg r = s.randomByte ∧
      (∀ v rest, s.inputs.rands = v :: rest → t.reg r = v ∧ t.inputs.rands = rest) ∧ KeepsZ s t ∧ t.pc = s.pc + 1#16 ∧
      t.inputs.lines = s.inputs.lines ∧ t.inputs.keys = s.inputs.keys ∧
      KeepsRegsBut r s t ∧ KeepsMem s t ∧ KeepsDisp s t ∧ KeepsProg s t ∧ KeepsRun s t ∧ KeepsOut s t

/-! ## Display and sleep (44_display_sleep.md) -/

/-- R200, R201: DRAW writes the normalised character to the cell (y, x) of the grid and no other, or nothing when x >= 80 or y >= 25;
the control set is the spec's own decision (D15, log 13). The read back needs the canonical form of the display, an invariant (log
20). -/
def Obligations.DrawWritesOneCellOrNone : Prop :=
  ∀ (x y c : Source) (s : State),
    ∃ t, exec (.draw x y c) s = .next t ∧
      ((s.resolve x).toNat < 80 ∧ (s.resolve y).toNat < 25 →
        (Grid.wf s.disp = true →
          t.cell (s.resolve y).toNat (s.resolve x).toNat =
            if (s.resolve c).toNat ≤ 0x1F ∨ (0x7F ≤ (s.resolve c).toNat ∧ (s.resolve c).toNat ≤ 0x9F) then 0x20#8
            else s.resolve c) ∧
          KeepsDispBut (s.resolve y).toNat (s.resolve x).toNat s t) ∧
      (80 ≤ (s.resolve x).toNat ∨ 25 ≤ (s.resolve y).toNat → KeepsDisp s t) ∧
      t.pc = s.pc + 1#16 ∧ KeepsZ s t ∧ KeepsRegs s t ∧ KeepsMem s t ∧ KeepsSystem s t

/-- R202: CLS; its word is the spec's own encoding (D1 to D5, log 7). -/
def Obligations.ClsFillsTheDisplayWithSpaces : Prop :=
  ∀ s : State,
    encode .cls = wordFN 0x15#8 ∧
      ∃ t, exec .cls s = .next t ∧ (∀ row col, row < 25 → col < 80 → t.cell row col = 0x20#8) ∧
        t.disp = State.reset.disp ∧ t.pc = s.pc + 1#16 ∧
        KeepsZ s t ∧ KeepsRegs s t ∧ KeepsMem s t ∧ KeepsSystem s t

/-- R203: RENDER emits the snapshot of the 25 rows of 80 cells, row 0 first, and changes nothing else (D16, D24, log 17). -/
def Obligations.RenderEmitsTheSnapshot : Prop :=
  ∀ s : State,
    ∃ t grid, exec .render s = .next t ∧ t.out = s.out ++ [.render grid] ∧ grid.length = 25 ∧
      (∀ row, row < 25 → ∃ cells, grid[row]? = some cells ∧ cells.length = 80 ∧
        ∀ col, col < 80 → cells[col]? = some (s.cell row col)) ∧
      t.pc = s.pc + 1#16 ∧ KeepsZ s t ∧ KeepsRegs s t ∧ KeepsMem s t ∧ KeepsDisp s t ∧ KeepsProg s t ∧ KeepsRun s t ∧
      KeepsInputs s t

/-- R204, R205: CTS and SLP emit their event and change nothing else; the display is unchanged (D20, D23, D24, log 17). -/
def Obligations.CtsAndSlpEmitTheirEvent : Prop :=
  ∀ (ms : Millis) (s : State),
    (∃ t, exec .cts s = .next t ∧ t.out = s.out ++ [.clearTerminal] ∧ t.pc = s.pc + 1#16 ∧
      KeepsZ s t ∧ KeepsRegs s t ∧ KeepsMem s t ∧ KeepsDisp s t ∧ KeepsProg s t ∧ KeepsRun s t ∧ KeepsInputs s t) ∧
    (∃ t, exec (.slp ms) s = .next t ∧ t.out = s.out ++ [.sleep ms] ∧ t.pc = s.pc + 1#16 ∧
      KeepsZ s t ∧ KeepsRegs s t ∧ KeepsMem s t ∧ KeepsDisp s t ∧ KeepsProg s t ∧ KeepsRun s t ∧ KeepsInputs s t)

/-! ## The assembler (30_encoding.md R100 to R122) -/

/-- R121: each worked source line assembles to its word (D2, D21, log 7, log 19). -/
def Obligations.WorkedSourcesAssemble : Prop :=
  ∀ p ∈ workedEncodings, assembleImage p.1.toList = .ok [p.2.2]

/-- R112, R119: a label that is not all digits and the decimal text of its index are the same target. -/
def Obligations.LabelAndNumericTargetsAgree : Prop :=
  ∀ (labels : Labels) (name : Token) (i : Nat), lookupLabel labels name = some i → i ≤ 65535 → name.all isDigitChar = false →
    parseTarget labels name = .ok (BitVec.ofNat 16 i) ∧ parseTarget labels (decimalText i) = .ok (BitVec.ofNat 16 i)

/-- R104, R118: every queued statement assembles to exactly one instruction, and no label is bound above the program's length. -/
def Obligations.OneInstructionPerStatement : Prop :=
  ∀ (source : List Char) (labels : Labels) (queue : List Statement) (instrs : List Instr),
    collect (segmentsOf source) [] [] = .ok (labels, queue) → assemble source = .ok instrs →
      instrs.length = queue.length ∧ ∀ p ∈ labels, p.2 ≤ instrs.length

/-- R122: every word of an assembled image is legal, and a core that runs it never takes the fault ILLEGAL_INSTRUCTION. -/
def Obligations.AssembledProgramsNeverRaiseIllegalInstruction : Prop :=
  ∀ (source : List Char) (image : List Word), assembleImage source = .ok image →
    (∀ w ∈ image, legalWord w = true) ∧
      ∀ s t : State, s.prog = image → step s = .next t → ∀ k, t.run ≠ .faulted .illegalInstruction k

/-! ## Effective address (20_memory.md) -/

/-- R53: the effective address is the literal or the register's value, unscaled, and no instruction changes the base register unless it
is also the destination. That no address faults is the spec's own inference ("derived: from rule R53 and rule R56"; R221 lists no such
cause). MOV, ADD, SUB, MUL, DIV, MOD and CMP stand here in their memory-operand forms; a zero divisor is no matter of the address. -/
def Obligations.EffectiveAddressIsUnscaledAndNeverFaults : Prop :=
  ∀ s : State,
    (∀ a, s.effectiveAddress (.abs a) = a) ∧
      (∀ r, s.effectiveAddress (.ind r) = s.reg r) ∧
      (∀ (d : Reg) (m : MemSrc), ∀ mk ∈ [Instr.mov, Instr.add, Instr.sub, Instr.mul],
        ∃ t, exec (mk d (.mem m)) s = .next t ∧ KeepsRun s t ∧ KeepsRegsBut d s t) ∧
      (∀ (d : Reg) (m : MemSrc), ∀ mk ∈ [Instr.div, Instr.mod],
        ∃ t, exec (mk d (.mem m)) s = .next t ∧ KeepsRegsBut d s t ∧ ((s.resolve (.mem m)).toNat ≠ 0 → KeepsRun s t)) ∧
      (∀ (r : Reg) (m : MemSrc),
        (∃ t, exec (.store r m) s = .next t ∧ KeepsRun s t ∧ KeepsRegs s t) ∧
          ∃ t, exec (.cmp r (.mem m)) s = .next t ∧ KeepsRun s t ∧ KeepsRegs s t) ∧
      (∀ x y c : Source, ∃ t, exec (.draw x y c) s = .next t ∧ KeepsRun s t ∧ KeepsRegs s t)
end

