-- ==== Sys2Proof/Laws/Cells.lean ====
section
/-! SUPPORT. The laws of cells in canonical form, for data memory and the display: read after write, other cells kept, the
canonical form kept. -/

namespace Sys2Proof.Machine

/-- A canonical list that starts above `lo` also starts above anything lower. -/
theorem canonicalFrom_mono {blank : Byte} {bound lo lo' : Nat} {cells : List Host.Cell} (h : lo' ≤ lo)
    (hc : canonicalFrom blank bound lo cells = true) : canonicalFrom blank bound lo' cells = true := by
  cases cells with
  | nil => rfl
  | cons x rest =>
    simp only [canonicalFrom, Bool.and_eq_true, decide_eq_true_eq] at hc ⊢
    obtain ⟨⟨⟨h1, h2⟩, h3⟩, h4⟩ := hc
    exact ⟨⟨⟨by omega, h2⟩, h3⟩, h4⟩

/-- A canonical list reads as blank below its start. -/
theorem readCell_below {blank : Byte} {bound lo k : Nat} {cells : List Host.Cell}
    (hc : canonicalFrom blank bound lo cells = true) (hk : k < lo) : readCell blank cells k = blank := by
  induction cells generalizing lo with
  | nil => rfl
  | cons x rest ih =>
    simp only [canonicalFrom, Bool.and_eq_true, decide_eq_true_eq] at hc
    obtain ⟨⟨⟨h1, _⟩, _⟩, h4⟩ := hc
    have hne : x.1 ≠ k := by omega
    simp only [readCell, hne, if_false]
    exact ih h4 (by omega)

theorem readCell_consCell_same {blank : Byte} {bound k : Nat} {v : Byte} {rest : List Host.Cell}
    (hc : canonicalFrom blank bound (k + 1) rest = true) : readCell blank (consCell blank k v rest) k = v := by
  by_cases hv : v = blank
  · simp only [consCell, hv, if_true]
    exact readCell_below hc (Nat.lt_succ_self k)
  · simp [consCell, hv, readCell]

theorem readCell_consCell_other {blank : Byte} {k j : Nat} {v : Byte} {rest : List Host.Cell} (h : j ≠ k) :
    readCell blank (consCell blank k v rest) j = readCell blank rest j := by
  by_cases hv : v = blank
  · simp [consCell, hv]
  · simp [consCell, hv, readCell, Ne.symm h]

/-- Read after write to the same cell. -/
theorem readCell_writeCell_same {blank : Byte} {bound lo k : Nat} {v : Byte} {cells : List Host.Cell}
    (hc : canonicalFrom blank bound lo cells = true) : readCell blank (writeCell blank cells k v) k = v := by
  induction cells generalizing lo with
  | nil => exact readCell_consCell_same (bound := bound) rfl
  | cons x rest ih =>
    have hc' := hc
    simp only [canonicalFrom, Bool.and_eq_true, decide_eq_true_eq] at hc
    obtain ⟨⟨⟨h1, h2⟩, h3⟩, h4⟩ := hc
    by_cases hlt : k < x.1
    · simp only [writeCell, hlt, if_true]
      refine readCell_consCell_same (bound := bound) ?_
      simp only [canonicalFrom, Bool.and_eq_true, decide_eq_true_eq]
      exact ⟨⟨⟨by omega, h2⟩, h3⟩, h4⟩
    · by_cases heq : k = x.1
      · subst heq
        simp only [writeCell, Nat.lt_irrefl, if_false, if_true]
        exact readCell_consCell_same h4
      · have hne : x.1 ≠ k := fun e => heq e.symm
        simp only [writeCell, hlt, heq, if_false, readCell, hne]
        exact ih h4

/-- A write leaves every other cell alone. -/
theorem readCell_writeCell_other {blank : Byte} {k j : Nat} {v : Byte} {cells : List Host.Cell} (h : j ≠ k) :
    readCell blank (writeCell blank cells k v) j = readCell blank cells j := by
  induction cells with
  | nil => simpa [writeCell] using readCell_consCell_other (blank := blank) (rest := []) h
  | cons x rest ih =>
    by_cases hlt : k < x.1
    · simp only [writeCell, hlt, if_true]
      exact readCell_consCell_other h
    · by_cases heq : k = x.1
      · subst heq
        simp only [writeCell, Nat.lt_irrefl, if_false, if_true, readCell]
        rw [readCell_consCell_other h]
        simp [Ne.symm h]
      · simp only [writeCell, hlt, heq, if_false, readCell, ih]

theorem canonicalFrom_consCell {blank : Byte} {bound lo k : Nat} {v : Byte} {rest : List Host.Cell} (h1 : lo ≤ k)
    (h2 : k < bound) (hc : canonicalFrom blank bound (k + 1) rest = true) :
    canonicalFrom blank bound lo (consCell blank k v rest) = true := by
  by_cases hv : v = blank
  · simp only [consCell, hv, if_true]
    exact canonicalFrom_mono (by omega) hc
  · simp only [consCell, hv, if_false, canonicalFrom, Bool.and_eq_true, decide_eq_true_eq]
    exact ⟨⟨⟨h1, h2⟩, hv⟩, hc⟩

/-- A write keeps the canonical form. -/
theorem canonicalFrom_writeCell {blank : Byte} {bound lo k : Nat} {v : Byte} {cells : List Host.Cell} (hlo : lo ≤ k)
    (hk : k < bound) (hc : canonicalFrom blank bound lo cells = true) :
    canonicalFrom blank bound lo (writeCell blank cells k v) = true := by
  induction cells generalizing lo with
  | nil => exact canonicalFrom_consCell hlo hk rfl
  | cons x rest ih =>
    simp only [canonicalFrom, Bool.and_eq_true, decide_eq_true_eq] at hc
    obtain ⟨⟨⟨h1, h2⟩, h3⟩, h4⟩ := hc
    by_cases hlt : k < x.1
    · simp only [writeCell, hlt, if_true]
      refine canonicalFrom_consCell hlo hk ?_
      simp only [canonicalFrom, Bool.and_eq_true, decide_eq_true_eq]
      exact ⟨⟨⟨by omega, h2⟩, h3⟩, h4⟩
    · by_cases heq : k = x.1
      · subst heq
        simp only [writeCell, Nat.lt_irrefl, if_false, if_true]
        exact canonicalFrom_consCell hlo hk h4
      · simp only [writeCell, hlt, heq, if_false, canonicalFrom, Bool.and_eq_true, decide_eq_true_eq]
        exact ⟨⟨⟨h1, h2⟩, h3⟩, ih (by omega) h4⟩

/-- Every memory write keeps the canonical form of data memory. -/
theorem memWrite_wf (s : State) (a v : Byte) (h : Memory.wf s.mem = true) : Memory.wf (s.memWrite a v).mem = true :=
  canonicalFrom_writeCell (Nat.zero_le _) (by simpa [Config.memSize] using a.isLt) h

/-- The key of a cell of the grid lies below its bound. -/
theorem cellKey_lt {row col : Nat} (hr : row < 25) (hc : col < 80) : cellKey row col < Config.rows * Config.cols := by
  simp only [cellKey, Config.rows, Config.cols]
  omega

/-- Different cells of the grid have different keys. -/
theorem cellKey_inj {row col row' col' : Nat} (hc : col < 80) (hc' : col' < 80) (h : cellKey row col = cellKey row' col') :
    row = row' ∧ col = col' := by
  simp only [cellKey, Config.cols] at h
  omega

/-- Every display write inside the grid keeps the canonical form of the display. -/
theorem dispWrite_wf (s : State) {row col : Nat} (ch : Byte) (hr : row < 25) (hc : col < 80) (h : Grid.wf s.disp = true) :
    Grid.wf (s.dispWrite row col ch).disp = true :=
  canonicalFrom_writeCell (Nat.zero_le _) (cellKey_lt hr hc) h

/-- Memory at reset is in canonical form. -/
theorem reset_mem_wf : Memory.wf State.reset.mem = true := rfl

/-- Reading a mapped range, entry by entry. -/
theorem readCell_map_range' {blank ch : Byte} (k lo n : Nat) (h1 : lo ≤ k) (h2 : k < lo + n) :
    readCell blank ((List.range' lo n).map (fun j => (j, ch))) k = ch := by
  induction n generalizing lo with
  | zero => omega
  | succ n ih =>
    simp only [List.range'_succ, List.map_cons, readCell]
    by_cases h : lo = k
    · simp [h]
    · simp only [h, if_false]
      exact ih (lo + 1) (by omega) (by omega)

/-- DispFill puts its character in every cell of the grid. -/
theorem readCell_filledGrid (ch : Byte) {k : Nat} (h : k < Config.rows * Config.cols) :
    readCell Config.dispBlank (filledGrid ch) k = ch := by
  unfold filledGrid
  by_cases hb : ch = Config.dispBlank
  · simp [hb, readCell]
  · simp only [hb, if_false, List.range_eq_range']
    exact readCell_map_range' k 0 _ (Nat.zero_le _) (by omega)

/-- The word withFetchWord places is the one the next fetch reads. -/
theorem placeWord_get (prog : List Word) (i : Nat) (w : Word) : (placeWord prog i w)[i]? = some w := by
  have hlen : (prog.take i ++ List.replicate (i - prog.length) 0#48).length = i := by
    simp only [List.length_append, List.length_take, List.length_replicate]
    omega
  unfold placeWord
  rw [List.getElem?_append_right (by omega), hlen]
  simp

/-- The next fetch after withFetchWord reads the word placed. -/
theorem fetch_withFetchWord (s : State) (nbits w : Nat) :
    (s.withFetchWord nbits w).fetch = some (BitVec.ofNat 48 (w % 2 ^ nbits)) :=
  placeWord_get s.prog s.pc.toNat _

end Sys2Proof.Machine
end

