-- ==== Sys2Proof/Laws/Encoding.lean ====
section
/-! SUPPORT. The fields of encoded words: each format's word gives back the opcode, the operands and the zero bits it was made
from. -/

namespace Sys2Proof

@[simp] theorem decodeReg_encodeReg (r : Reg) : decodeReg (encodeReg r) = .ok r := by cases r <;> rfl

/-- A code that decodes to a register is that register's code. -/
theorem encodeReg_of_decodeReg {c : BitVec 3} {r : Reg} (h : decodeReg c = .ok r) : encodeReg r = c := by
  have key : ∀ c : BitVec 3, (decodeReg c).toOption.all (fun r => encodeReg r == c) = true := by decide
  simpa [h, Except.toOption] using key c

/-- A field of the low part of a concatenation. -/
theorem extract_low {m n : Nat} (x : BitVec m) (y : BitVec n) (lo len : Nat) (h : lo + len ≤ n) :
    (x ++ y).extractLsb' lo len = y.extractLsb' lo len :=
  BitVec.extractLsb'_append_eq_of_add_le h

/-- A field of the high part of a concatenation. -/
theorem extract_high {m n : Nat} (x : BitVec m) (y : BitVec n) (lo len : Nat) (h : n ≤ lo) :
    (x ++ y).extractLsb' lo len = x.extractLsb' (lo - n) len :=
  BitVec.extractLsb'_append_eq_of_le h

/-- The whole of a vector. -/
theorem extract_all {n : Nat} (x : BitVec n) : x.extractLsb' 0 n = x := BitVec.extractLsb'_eq_self

/-- A field of zeros. -/
theorem extract_zero (n lo len : Nat) : (0#n).extractLsb' lo len = 0#len := by
  apply BitVec.eq_of_getLsbD_eq
  intro i hi
  simp

/-- Two adjacent fields side by side are one field. -/
theorem extract_split {n : Nat} (x : BitVec n) (lo a b : Nat) :
    x.extractLsb' (lo + a) b ++ x.extractLsb' lo a = x.extractLsb' lo (b + a) := by
  apply BitVec.eq_of_getLsbD_eq
  intro i hi
  simp only [BitVec.getLsbD_append, BitVec.getLsbD_extractLsb']
  by_cases h : i < a
  · simp only [h, if_true, decide_true, Bool.true_and, show i < b + a by omega]
  · simp only [h, if_false, hi, decide_true, Bool.true_and, show i - a < b by omega]
    congr 1
    omega

/-- Every slot has mode and payload, and is put together from them. -/
theorem slot_eq (sl : BitVec 10) : sl.extractLsb' 8 2 ++ sl.extractLsb' 0 8 = sl := by
  rw [extract_split sl 0 8 2, BitVec.extractLsb'_eq_self]

@[simp] theorem decodeSlot_encodeSlot (src : Source) : decodeSlot (encodeSlot src) = .ok src := by
  cases src with
  | reg r => cases r <;> rfl
  | lit v =>
    have hm : (0b01#2 ++ v : BitVec 10).extractLsb' 8 2 = 0b01#2 := by
      rw [extract_high _ _ _ _ (Nat.le_refl 8), extract_all]
    have hv : (0b01#2 ++ v : BitVec 10).extractLsb' 0 8 = v := by
      rw [extract_low _ _ _ _ (Nat.le_refl 8), extract_all]
    simp only [decodeSlot, encodeSlot, hm, hv, BitVec.toNat_ofNat, Nat.reducePow, Nat.reduceMod]
  | mem m =>
    cases m with
    | ind r => cases r <;> rfl
    | abs a =>
      have hm : (0b10#2 ++ a : BitVec 10).extractLsb' 8 2 = 0b10#2 := by
        rw [extract_high _ _ _ _ (Nat.le_refl 8), extract_all]
      have hv : (0b10#2 ++ a : BitVec 10).extractLsb' 0 8 = a := by
        rw [extract_low _ _ _ _ (Nat.le_refl 8), extract_all]
      simp only [decodeSlot, encodeSlot, encodeMemSlot, hm, hv, BitVec.toNat_ofNat, Nat.reducePow, Nat.reduceMod]

@[simp] theorem decodeMemSlot_encodeMemSlot (m : MemSrc) : decodeMemSlot (encodeMemSlot m) = .ok m := by
  have h : decodeSlot (encodeMemSlot m) = .ok (.mem m) := decodeSlot_encodeSlot (.mem m)
  simp only [decodeMemSlot, h]

/-- A code is legal exactly when it decodes (R83). -/
theorem decodeReg_isOk (c : BitVec 3) : (decodeReg c).toOption.isSome = legalRegCode c := by
  revert c
  decide

end Sys2Proof
end

