-- ==== Sys2Proof/Laws/State.lean ====
section
/-! SUPPORT. The shared operations, one lemma per field they read or write, so that no proof unfolds a record update. -/

namespace Sys2Proof.Machine

section
variable (s : State) (r : Reg) (v a ch : Byte) (b : Bool) (t : Index) (c : Cause) (e : Event) (row col : Nat)

@[simp] theorem setReg_regs : (s.setReg r v).regs = s.regs.set r v := rfl
@[simp] theorem setReg_pc : (s.setReg r v).pc = s.pc := rfl
@[simp] theorem setReg_z : (s.setReg r v).z = s.z := rfl
@[simp] theorem setReg_mem : (s.setReg r v).mem = s.mem := rfl
@[simp] theorem setReg_prog : (s.setReg r v).prog = s.prog := rfl
@[simp] theorem setReg_disp : (s.setReg r v).disp = s.disp := rfl
@[simp] theorem setReg_run : (s.setReg r v).run = s.run := rfl
@[simp] theorem setReg_out : (s.setReg r v).out = s.out := rfl
@[simp] theorem setReg_inputs : (s.setReg r v).inputs = s.inputs := rfl

@[simp] theorem setZ_regs : (s.setZ b).regs = s.regs := rfl
@[simp] theorem setZ_pc : (s.setZ b).pc = s.pc := rfl
@[simp] theorem setZ_z : (s.setZ b).z = b := rfl
@[simp] theorem setZ_mem : (s.setZ b).mem = s.mem := rfl
@[simp] theorem setZ_prog : (s.setZ b).prog = s.prog := rfl
@[simp] theorem setZ_disp : (s.setZ b).disp = s.disp := rfl
@[simp] theorem setZ_run : (s.setZ b).run = s.run := rfl
@[simp] theorem setZ_out : (s.setZ b).out = s.out := rfl
@[simp] theorem setZ_inputs : (s.setZ b).inputs = s.inputs := rfl

@[simp] theorem advance_regs : s.advance.regs = s.regs := rfl
@[simp] theorem advance_pc : s.advance.pc = s.pc + 1#16 := rfl
@[simp] theorem advance_z : s.advance.z = s.z := rfl
@[simp] theorem advance_mem : s.advance.mem = s.mem := rfl
@[simp] theorem advance_prog : s.advance.prog = s.prog := rfl
@[simp] theorem advance_disp : s.advance.disp = s.disp := rfl
@[simp] theorem advance_run : s.advance.run = s.run := rfl
@[simp] theorem advance_out : s.advance.out = s.out := rfl
@[simp] theorem advance_inputs : s.advance.inputs = s.inputs := rfl

@[simp] theorem jump_regs : (s.jump t).regs = s.regs := rfl
@[simp] theorem jump_pc : (s.jump t).pc = t := rfl
@[simp] theorem jump_z : (s.jump t).z = s.z := rfl
@[simp] theorem jump_mem : (s.jump t).mem = s.mem := rfl
@[simp] theorem jump_prog : (s.jump t).prog = s.prog := rfl
@[simp] theorem jump_disp : (s.jump t).disp = s.disp := rfl
@[simp] theorem jump_run : (s.jump t).run = s.run := rfl
@[simp] theorem jump_out : (s.jump t).out = s.out := rfl
@[simp] theorem jump_inputs : (s.jump t).inputs = s.inputs := rfl

@[simp] theorem halt_regs : s.halt.regs = s.regs := rfl
@[simp] theorem halt_pc : s.halt.pc = s.pc := rfl
@[simp] theorem halt_z : s.halt.z = s.z := rfl
@[simp] theorem halt_mem : s.halt.mem = s.mem := rfl
@[simp] theorem halt_prog : s.halt.prog = s.prog := rfl
@[simp] theorem halt_disp : s.halt.disp = s.disp := rfl
@[simp] theorem halt_run : s.halt.run = .halted := rfl
@[simp] theorem halt_out : s.halt.out = s.out := rfl
@[simp] theorem halt_inputs : s.halt.inputs = s.inputs := rfl

@[simp] theorem raiseFault_regs : (s.raiseFault c).regs = s.regs := rfl
@[simp] theorem raiseFault_pc : (s.raiseFault c).pc = s.pc := rfl
@[simp] theorem raiseFault_z : (s.raiseFault c).z = s.z := rfl
@[simp] theorem raiseFault_mem : (s.raiseFault c).mem = s.mem := rfl
@[simp] theorem raiseFault_prog : (s.raiseFault c).prog = s.prog := rfl
@[simp] theorem raiseFault_disp : (s.raiseFault c).disp = s.disp := rfl
@[simp] theorem raiseFault_run : (s.raiseFault c).run = .faulted c s.pc := rfl
@[simp] theorem raiseFault_out : (s.raiseFault c).out = s.out := rfl
@[simp] theorem raiseFault_inputs : (s.raiseFault c).inputs = s.inputs := rfl

@[simp] theorem memWrite_regs : (s.memWrite a v).regs = s.regs := rfl
@[simp] theorem memWrite_pc : (s.memWrite a v).pc = s.pc := rfl
@[simp] theorem memWrite_z : (s.memWrite a v).z = s.z := rfl
@[simp] theorem memWrite_mem : (s.memWrite a v).mem = writeCell Config.memBlank s.mem a.toNat v := rfl
@[simp] theorem memWrite_prog : (s.memWrite a v).prog = s.prog := rfl
@[simp] theorem memWrite_disp : (s.memWrite a v).disp = s.disp := rfl
@[simp] theorem memWrite_run : (s.memWrite a v).run = s.run := rfl
@[simp] theorem memWrite_out : (s.memWrite a v).out = s.out := rfl
@[simp] theorem memWrite_inputs : (s.memWrite a v).inputs = s.inputs := rfl

@[simp] theorem dispWrite_regs : (s.dispWrite row col ch).regs = s.regs := rfl
@[simp] theorem dispWrite_pc : (s.dispWrite row col ch).pc = s.pc := rfl
@[simp] theorem dispWrite_z : (s.dispWrite row col ch).z = s.z := rfl
@[simp] theorem dispWrite_mem : (s.dispWrite row col ch).mem = s.mem := rfl
@[simp] theorem dispWrite_prog : (s.dispWrite row col ch).prog = s.prog := rfl
@[simp] theorem dispWrite_disp :
    (s.dispWrite row col ch).disp = writeCell Config.dispBlank s.disp (cellKey row col) ch := rfl
@[simp] theorem dispWrite_run : (s.dispWrite row col ch).run = s.run := rfl
@[simp] theorem dispWrite_out : (s.dispWrite row col ch).out = s.out := rfl
@[simp] theorem dispWrite_inputs : (s.dispWrite row col ch).inputs = s.inputs := rfl

@[simp] theorem dispFill_regs : (s.dispFill ch).regs = s.regs := rfl
@[simp] theorem dispFill_pc : (s.dispFill ch).pc = s.pc := rfl
@[simp] theorem dispFill_z : (s.dispFill ch).z = s.z := rfl
@[simp] theorem dispFill_mem : (s.dispFill ch).mem = s.mem := rfl
@[simp] theorem dispFill_prog : (s.dispFill ch).prog = s.prog := rfl
@[simp] theorem dispFill_disp : (s.dispFill ch).disp = filledGrid ch := rfl
@[simp] theorem dispFill_run : (s.dispFill ch).run = s.run := rfl
@[simp] theorem dispFill_out : (s.dispFill ch).out = s.out := rfl
@[simp] theorem dispFill_inputs : (s.dispFill ch).inputs = s.inputs := rfl

@[simp] theorem emit_regs : (s.emit e).regs = s.regs := rfl
@[simp] theorem emit_pc : (s.emit e).pc = s.pc := rfl
@[simp] theorem emit_z : (s.emit e).z = s.z := rfl
@[simp] theorem emit_mem : (s.emit e).mem = s.mem := rfl
@[simp] theorem emit_prog : (s.emit e).prog = s.prog := rfl
@[simp] theorem emit_disp : (s.emit e).disp = s.disp := rfl
@[simp] theorem emit_run : (s.emit e).run = s.run := rfl
@[simp] theorem emit_out : (s.emit e).out = s.out ++ [e] := rfl
@[simp] theorem emit_inputs : (s.emit e).inputs = s.inputs := rfl

@[simp] theorem takeLine_regs : s.takeLine.regs = s.regs := rfl
@[simp] theorem takeLine_pc : s.takeLine.pc = s.pc := rfl
@[simp] theorem takeLine_z : s.takeLine.z = s.z := rfl
@[simp] theorem takeLine_mem : s.takeLine.mem = s.mem := rfl
@[simp] theorem takeLine_prog : s.takeLine.prog = s.prog := rfl
@[simp] theorem takeLine_disp : s.takeLine.disp = s.disp := rfl
@[simp] theorem takeLine_run : s.takeLine.run = s.run := rfl
@[simp] theorem takeLine_out : s.takeLine.out = s.out := rfl
@[simp] theorem takeLine_lines : s.takeLine.inputs.lines = s.inputs.lines.tail := rfl
@[simp] theorem takeLine_lineSilent : s.takeLine.inputs.lineSilent = s.inputs.lineSilent := rfl
@[simp] theorem takeLine_keys : s.takeLine.inputs.keys = s.inputs.keys := rfl
@[simp] theorem takeLine_rands : s.takeLine.inputs.rands = s.inputs.rands := rfl
@[simp] theorem takeLine_draws : s.takeLine.inputs.draws = s.inputs.draws + 1 := rfl

@[simp] theorem drainKeys_regs : s.drainKeys.regs = s.regs := rfl
@[simp] theorem drainKeys_pc : s.drainKeys.pc = s.pc := rfl
@[simp] theorem drainKeys_z : s.drainKeys.z = s.z := rfl
@[simp] theorem drainKeys_mem : s.drainKeys.mem = s.mem := rfl
@[simp] theorem drainKeys_prog : s.drainKeys.prog = s.prog := rfl
@[simp] theorem drainKeys_disp : s.drainKeys.disp = s.disp := rfl
@[simp] theorem drainKeys_run : s.drainKeys.run = s.run := rfl
@[simp] theorem drainKeys_out : s.drainKeys.out = s.out := rfl
@[simp] theorem drainKeys_lines : s.drainKeys.inputs.lines = s.inputs.lines := rfl
@[simp] theorem drainKeys_lineSilent : s.drainKeys.inputs.lineSilent = s.inputs.lineSilent := rfl
@[simp] theorem drainKeys_keys : s.drainKeys.inputs.keys = s.inputs.keys.tail := rfl
@[simp] theorem drainKeys_rands : s.drainKeys.inputs.rands = s.inputs.rands := rfl
@[simp] theorem drainKeys_draws : s.drainKeys.inputs.draws = s.inputs.draws + 1 := rfl

@[simp] theorem takeRandom_regs : s.takeRandom.regs = s.regs := rfl
@[simp] theorem takeRandom_pc : s.takeRandom.pc = s.pc := rfl
@[simp] theorem takeRandom_z : s.takeRandom.z = s.z := rfl
@[simp] theorem takeRandom_mem : s.takeRandom.mem = s.mem := rfl
@[simp] theorem takeRandom_prog : s.takeRandom.prog = s.prog := rfl
@[simp] theorem takeRandom_disp : s.takeRandom.disp = s.disp := rfl
@[simp] theorem takeRandom_run : s.takeRandom.run = s.run := rfl
@[simp] theorem takeRandom_out : s.takeRandom.out = s.out := rfl
@[simp] theorem takeRandom_lines : s.takeRandom.inputs.lines = s.inputs.lines := rfl
@[simp] theorem takeRandom_lineSilent : s.takeRandom.inputs.lineSilent = s.inputs.lineSilent := rfl
@[simp] theorem takeRandom_keys : s.takeRandom.inputs.keys = s.inputs.keys := rfl
@[simp] theorem takeRandom_rands : s.takeRandom.inputs.rands = s.inputs.rands.tail := rfl
@[simp] theorem takeRandom_draws : s.takeRandom.inputs.draws = s.inputs.draws + 1 := rfl

end

/-! ## The register file -/

@[simp] theorem regs_get_set (rs : Regs) (d r : Reg) (v : Byte) : (rs.set d v).get r = if r = d then v else rs.get r := by
  cases d <;> cases r <;> rfl

/-- Register read after register write: every register reads back the last value written to it (R20). -/
@[simp] theorem reg_setReg (s : State) (d r : Reg) (v : Byte) : (s.setReg d v).reg r = if r = d then v else s.reg r :=
  regs_get_set s.regs d r v

/-! ## Reads see only their own field -/

theorem reg_congr {s t : State} (h : t.regs = s.regs) (r : Reg) : t.reg r = s.reg r := by simp [State.reg, h]

theorem memRead_congr {s t : State} (h : t.mem = s.mem) (a : Byte) : t.memRead a = s.memRead a := by simp [State.memRead, h]

theorem cell_congr {s t : State} (h : t.disp = s.disp) (row col : Nat) : t.cell row col = s.cell row col := by
  simp [State.cell, h]

theorem fetch_congr {s t : State} (hp : t.prog = s.prog) (hc : t.pc = s.pc) : t.fetch = s.fetch := by
  simp [State.fetch, hp, hc]

/-- An operand resolves from the registers and data memory alone (R51). -/
theorem resolve_congr {s t : State} (hr : t.regs = s.regs) (hm : t.mem = s.mem) (src : Source) :
    t.resolve src = s.resolve src := by
  cases src with
  | reg r => exact reg_congr hr r
  | lit v => rfl
  | mem m => cases m <;> simp [State.resolve, State.effectiveAddress, State.memRead, State.reg, hr, hm]

/-! ## The common end of MOV and the arithmetic instructions -/

section
variable (s : State) (d : Reg) (v : Byte)

@[simp] theorem produce_regs : (s.produce d v).regs = s.regs.set d v := rfl
@[simp] theorem produce_z : (s.produce d v).z = zeroFlag v := rfl
@[simp] theorem produce_pc : (s.produce d v).pc = s.pc + 1#16 := rfl
@[simp] theorem produce_mem : (s.produce d v).mem = s.mem := rfl
@[simp] theorem produce_disp : (s.produce d v).disp = s.disp := rfl
@[simp] theorem produce_prog : (s.produce d v).prog = s.prog := rfl
@[simp] theorem produce_run : (s.produce d v).run = s.run := rfl
@[simp] theorem produce_out : (s.produce d v).out = s.out := rfl
@[simp] theorem produce_inputs : (s.produce d v).inputs = s.inputs := rfl

end

@[simp] theorem produce_reg (s : State) (d r : Reg) (v : Byte) :
    (s.produce d v).reg r = if r = d then v else s.reg r := regs_get_set s.regs d r v

/-- All that a division can do: fault on a zero divisor and write nothing but the run state, or produce its result. -/
theorem divide_cases (s : State) (d : Reg) (b v : Byte) :
    (b.toNat = 0 ∧ s.divide d b v = s.raiseFault .divByZero) ∨ (b.toNat ≠ 0 ∧ s.divide d b v = s.produce d v) := by
  by_cases h : b.toNat = 0
  · exact .inl ⟨h, by simp [State.divide, h]⟩
  · exact .inr ⟨h, by simp [State.divide, h]⟩

/-- All that a conditional transfer can do. -/
theorem branch_cases (s : State) (taken : Bool) (t : Index) :
    (taken = true ∧ s.branch taken t = s.jump t) ∨ (taken = false ∧ s.branch taken t = s.advance) := by
  cases taken <;> simp [State.branch]

/-- All that a bounds-checked draw can do. -/
theorem drawAt_cases (s : State) (col row ch : Byte) :
    (col.toNat < 80 ∧ row.toNat < 25 ∧ s.drawAt col row ch = s.dispWrite row.toNat col.toNat (normalizeChar ch)) ∨
      (¬(col.toNat < 80 ∧ row.toNat < 25) ∧ s.drawAt col row ch = s) := by
  by_cases h : col.toNat < 80 ∧ row.toNat < 25
  · exact .inl ⟨h.1, h.2, by simp [State.drawAt, h]⟩
  · exact .inr ⟨h, by simp [State.drawAt, h]⟩

/-- All that INPUT does with an answer. -/
theorem acceptLine_cases (s : State) (r : Reg) (ans : LineAnswer) :
    (ans = .invalid ∧ s.acceptLine r ans = s.raiseFault .invalidInput) ∨
      (ans ≠ .invalid ∧ ∃ v, s.acceptLine r ans = s.produce r v) := by
  cases ans <;> simp [State.acceptLine]

/-- All that one step can do (R93, R95, R88). -/
theorem step_cases {s t : State} (h : step s = .next t) :
    s.run = .running ∧
      ((s.fetch = none ∧ t = s.halt) ∨
        (∃ w, s.fetch = some w ∧ decode w = none ∧ t = s.raiseFault .illegalInstruction) ∨
        (∃ w i, s.fetch = some w ∧ decode w = some i ∧ exec i s = .next t)) := by
  unfold step at h
  cases hr : s.run with
  | halted => simp [hr] at h
  | faulted c i => simp [hr] at h
  | running =>
    refine ⟨rfl, ?_⟩
    simp only [hr] at h
    cases hf : s.fetch with
    | none => simp only [hf] at h; exact .inl ⟨rfl, by injection h with h; exact h.symm⟩
    | some w =>
      simp only [hf] at h
      cases hd : decode w with
      | none => simp only [hd] at h; exact .inr (.inl ⟨w, rfl, hd, by injection h with h; exact h.symm⟩)
      | some i => simp only [hd] at h; exact .inr (.inr ⟨w, i, rfl, hd, h⟩)

end Sys2Proof.Machine
end

