-- ==== Sys2Proof/Laws/Exec.lean ====
section
/-! SUPPORT. All that one instruction can do, said once: whoever proves something of every next state of `exec` proves it of the
next states listed here, and need not unfold a meaning. -/

namespace Sys2Proof.Machine

/-- INPUT with a valid answer. -/
theorem acceptLine_of_byte {s : State} {r : Reg} {ans : LineAnswer} {v : Byte} (h : answerByte ans = some v) :
    s.acceptLine r ans = s.produce r v := by
  cases ans <;> simp only [answerByte, Option.some.injEq, reduceCtorEq] at h <;> subst h <;> rfl

/-- An answer without a byte is Invalid. -/
theorem invalid_of_no_byte {ans : LineAnswer} (h : answerByte ans = none) : ans = .invalid := by
  cases ans <;> simp [answerByte] at h ⊢

/-- INPUT waits exactly when the host has no line and stays silent. -/
theorem lineEvent_none {s : State} : s.lineEvent = none ↔ s.inputs.lines = [] ∧ s.inputs.lineSilent = true := by
  unfold State.lineEvent
  cases s.inputs.lines <;> cases s.inputs.lineSilent <;> simp

/-- The next states of an instruction. -/
theorem exec_ind {s : State} {P : Instr → State → Prop}
    (mov : ∀ d src, P (.mov d src) (s.produce d (s.resolve src)))
    (store : ∀ r m, P (.store r m) (s.memWrite (s.effectiveAddress m) (s.reg r)).advance)
    (add : ∀ d src, P (.add d src) (s.produce d (aluAdd (s.reg d) (s.resolve src))))
    (sub : ∀ d src, P (.sub d src) (s.produce d (aluSub (s.reg d) (s.resolve src))))
    (mul : ∀ d src, P (.mul d src) (s.produce d (aluMul (s.reg d) (s.resolve src))))
    (div : ∀ d src, (s.resolve src).toNat ≠ 0 → P (.div d src) (s.produce d (aluDiv (s.reg d) (s.resolve src))))
    (mod : ∀ d src, (s.resolve src).toNat ≠ 0 → P (.mod d src) (s.produce d (aluMod (s.reg d) (s.resolve src))))
    (divZero : ∀ d src, (s.resolve src).toNat = 0 → P (.div d src) (s.raiseFault .divByZero))
    (modZero : ∀ d src, (s.resolve src).toNat = 0 → P (.mod d src) (s.raiseFault .divByZero))
    (mulh : ∀ d a b, P (.mulh d a b) (s.produce d (aluMulh (s.reg a) (s.reg b))))
    (cmp : ∀ r src, P (.cmp r src) (s.setZ (equalFlag (s.reg r) (s.resolve src))).advance)
    (jmp : ∀ a, P (.jmp a) (s.jump a))
    (jzTaken : ∀ a, s.z = true → P (.jz a) (s.jump a))
    (jzNot : ∀ a, s.z = false → P (.jz a) s.advance)
    (jnzTaken : ∀ a, s.z = false → P (.jnz a) (s.jump a))
    (jnzNot : ∀ a, s.z = true → P (.jnz a) s.advance)
    (loopTaken : ∀ a r, (s.reg r).toNat ≠ 0 → P (.loop a r) (s.jump a))
    (loopNot : ∀ a r, (s.reg r).toNat = 0 → P (.loop a r) s.advance)
    (halt : P .halt s.halt)
    (print : ∀ r nl, P (.print r nl) (s.emit (.print (s.reg r) nl)).advance)
    (printch : ∀ r nl, P (.printch r nl) (s.emit (.printCh (s.reg r) nl)).advance)
    (inputValid : ∀ r e v, s.lineEvent = some e → answerByte (classifyLine e) = some v →
      P (.input r) (s.takeLine.produce r v))
    (inputInvalid : ∀ r e, s.lineEvent = some e → classifyLine e = .invalid →
      P (.input r) (s.takeLine.raiseFault .invalidInput))
    (inkey : ∀ r, P (.inkey r) (s.drainKeys.produce r (s.polledKey.getD 0x00#8)))
    (rand : ∀ r, P (.rand r) (s.takeRandom.setReg r s.randomByte).advance)
    (drawIn : ∀ x y c, (s.resolve x).toNat < 80 → (s.resolve y).toNat < 25 →
      P (.draw x y c) (s.dispWrite (s.resolve y).toNat (s.resolve x).toNat (normalizeChar (s.resolve c))).advance)
    (drawOut : ∀ x y c, ¬((s.resolve x).toNat < 80 ∧ (s.resolve y).toNat < 25) → P (.draw x y c) s.advance)
    (cls : P .cls (s.dispFill 0x20#8).advance)
    (render : P .render (s.emit (.render s.dispRead)).advance)
    (cts : P .cts (s.emit .clearTerminal).advance)
    (slp : ∀ ms, P (.slp ms) (s.emit (.sleep ms)).advance)
    {i : Instr} {t : State} (h : exec i s = .next t) : P i t := by
  cases i with
  | mov d src => injection h with h; exact h ▸ mov d src
  | store r m => injection h with h; exact h ▸ store r m
  | add d src => injection h with h; exact h ▸ add d src
  | sub d src => injection h with h; exact h ▸ sub d src
  | mul d src => injection h with h; exact h ▸ mul d src
  | div d src =>
    injection h with h
    subst h
    rcases divide_cases s d (s.resolve src) (aluDiv (s.reg d) (s.resolve src)) with ⟨h0, h⟩ | ⟨h0, h⟩
    · exact h ▸ divZero d src h0
    · exact h ▸ div d src h0
  | mod d src =>
    injection h with h
    subst h
    rcases divide_cases s d (s.resolve src) (aluMod (s.reg d) (s.resolve src)) with ⟨h0, h⟩ | ⟨h0, h⟩
    · exact h ▸ modZero d src h0
    · exact h ▸ mod d src h0
  | mulh d a b => injection h with h; exact h ▸ mulh d a b
  | jmp a => injection h with h; exact h ▸ jmp a
  | jz a =>
    injection h with h
    subst h
    rcases branch_cases s s.z a with ⟨h0, h⟩ | ⟨h0, h⟩
    · exact h ▸ jzTaken a h0
    · exact h ▸ jzNot a h0
  | jnz a =>
    injection h with h
    subst h
    rcases branch_cases s (!s.z) a with ⟨h0, h⟩ | ⟨h0, h⟩
    · exact h ▸ jnzTaken a (by simpa using h0)
    · exact h ▸ jnzNot a (by simpa using h0)
  | loop a r =>
    injection h with h
    subst h
    rcases branch_cases s (decide ((s.reg r).toNat ≠ 0)) a with ⟨h0, h⟩ | ⟨h0, h⟩
    · exact h ▸ loopTaken a r (by simpa using h0)
    · exact h ▸ loopNot a r (by simpa using h0)
  | print r nl => injection h with h; exact h ▸ print r nl
  | printch r nl => injection h with h; exact h ▸ printch r nl
  | input r =>
    simp only [exec, execInput] at h
    cases he : s.lineEvent with
    | none => simp [he] at h
    | some e =>
      simp only [he] at h
      injection h with h
      subst h
      cases hb : answerByte (classifyLine e) with
      | some v => exact acceptLine_of_byte hb ▸ inputValid r e v he hb
      | none =>
        have hi := invalid_of_no_byte hb
        rw [hi]
        exact inputInvalid r e he hi
  | inkey r => injection h with h; exact h ▸ inkey r
  | draw x y c =>
    injection h with h
    subst h
    rcases drawAt_cases s (s.resolve x) (s.resolve y) (s.resolve c) with ⟨h1, h2, h⟩ | ⟨h0, h⟩
    · exact h ▸ drawIn x y c h1 h2
    · rw [h]
      exact drawOut x y c h0
  | slp ms => injection h with h; exact h ▸ slp ms
  | cmp r src => injection h with h; exact h ▸ cmp r src
  | rand r => injection h with h; exact h ▸ rand r
  | cls => injection h with h; exact h ▸ cls
  | cts => injection h with h; exact h ▸ cts
  | render => injection h with h; exact h ▸ render
  | halt => injection h with h; exact h ▸ halt

end Sys2Proof.Machine
end

