-- ==== Sys2Proof/Laws/PerInstr.lean ====
section
/-! SUPPORT. Statements about every instruction as syntax, one lemma per constructor (LAWS.json names the families). -/

namespace Sys2Proof.Laws.EncodedOpcode

/-- The opcode number of an instruction (R86). -/
def number : Instr → Nat
  | .mov _ _ => 0x01
  | .store _ _ => 0x02
  | .add _ _ => 0x03
  | .sub _ _ => 0x04
  | .mul _ _ => 0x05
  | .div _ _ => 0x06
  | .mod _ _ => 0x07
  | .mulh _ _ _ => 0x08
  | .jmp _ => 0x09
  | .jz _ => 0x0A
  | .jnz _ => 0x0B
  | .loop _ _ => 0x0C
  | .print _ _ => 0x0D
  | .printch _ _ => 0x0E
  | .input _ => 0x0F
  | .inkey _ => 0x10
  | .draw _ _ _ => 0x11
  | .slp _ => 0x12
  | .cmp _ _ => 0x13
  | .rand _ => 0x14
  | .cls => 0x15
  | .cts => 0x16
  | .render => 0x17
  | .halt => 0x18

/-- The OP field of the instruction's word is its opcode number (R81, R86). -/
def Statement (i : Instr) : Prop := (opField (encode i)).toNat = number i

theorem opField_wordFN (op : BitVec 8) : opField (wordFN op) = op := by
  simp (disch := decide) only [opField, wordFN, extract_high, Nat.sub_self, extract_all]

theorem opField_wordFR (op : BitVec 8) (r : Reg) : opField (wordFR op r) = op := by
  simp (disch := decide) only [opField, wordFR, extract_high, Nat.reduceSub, extract_all]

theorem opField_wordFRN (op : BitVec 8) (r : Reg) (nl : Bool) : opField (wordFRN op r nl) = op := by
  simp (disch := decide) only [opField, wordFRN, extract_high, Nat.reduceSub, extract_all]

theorem opField_wordFRS (op : BitVec 8) (r : Reg) (src : Source) : opField (wordFRS op r src) = op := by
  simp (disch := decide) only [opField, wordFRS, extract_high, Nat.reduceSub, extract_all]

theorem opField_wordFRM (op : BitVec 8) (r : Reg) (m : MemSrc) : opField (wordFRM op r m) = op := by
  simp (disch := decide) only [opField, wordFRM, extract_high, Nat.reduceSub, extract_all]

theorem opField_wordFRRR (op : BitVec 8) (d a b : Reg) : opField (wordFRRR op d a b) = op := by
  simp (disch := decide) only [opField, wordFRRR, extract_high, Nat.reduceSub, extract_all]

theorem opField_wordFJ (op : BitVec 8) (t : Index) : opField (wordFJ op t) = op := by
  simp (disch := decide) only [opField, wordFJ, extract_high, Nat.reduceSub, extract_all]

theorem opField_wordFJR (op : BitVec 8) (t : Index) (r : Reg) : opField (wordFJR op t r) = op := by
  simp (disch := decide) only [opField, wordFJR, extract_high, Nat.reduceSub, extract_all]

theorem opField_wordFSSS (op : BitVec 8) (x y c : Source) : opField (wordFSSS op x y c) = op := by
  simp (disch := decide) only [opField, wordFSSS, extract_high, Nat.reduceSub, extract_all]

theorem opField_wordFD (op : BitVec 8) (ms : Millis) : opField (wordFD op ms) = op := by
  simp (disch := decide) only [opField, wordFD, extract_high, Nat.reduceSub, extract_all]

theorem mov (d : Reg) (src : Source) : Statement (.mov d src) := by simp only [Statement, encode, opField_wordFRS]; rfl
theorem store (r : Reg) (m : MemSrc) : Statement (.store r m) := by simp only [Statement, encode, opField_wordFRM]; rfl
theorem add (d : Reg) (src : Source) : Statement (.add d src) := by simp only [Statement, encode, opField_wordFRS]; rfl
theorem sub (d : Reg) (src : Source) : Statement (.sub d src) := by simp only [Statement, encode, opField_wordFRS]; rfl
theorem mul (d : Reg) (src : Source) : Statement (.mul d src) := by simp only [Statement, encode, opField_wordFRS]; rfl
theorem div (d : Reg) (src : Source) : Statement (.div d src) := by simp only [Statement, encode, opField_wordFRS]; rfl
theorem mod (d : Reg) (src : Source) : Statement (.mod d src) := by simp only [Statement, encode, opField_wordFRS]; rfl
theorem mulh (d a b : Reg) : Statement (.mulh d a b) := by simp only [Statement, encode, opField_wordFRRR]; rfl
theorem jmp (t : Index) : Statement (.jmp t) := by simp only [Statement, encode, opField_wordFJ]; rfl
theorem jz (t : Index) : Statement (.jz t) := by simp only [Statement, encode, opField_wordFJ]; rfl
theorem jnz (t : Index) : Statement (.jnz t) := by simp only [Statement, encode, opField_wordFJ]; rfl
theorem loop (t : Index) (r : Reg) : Statement (.loop t r) := by simp only [Statement, encode, opField_wordFJR]; rfl
theorem print (r : Reg) (nl : Bool) : Statement (.print r nl) := by simp only [Statement, encode, opField_wordFRN]; rfl
theorem printch (r : Reg) (nl : Bool) : Statement (.printch r nl) := by simp only [Statement, encode, opField_wordFRN]; rfl
theorem input (r : Reg) : Statement (.input r) := by simp only [Statement, encode, opField_wordFR]; rfl
theorem inkey (r : Reg) : Statement (.inkey r) := by simp only [Statement, encode, opField_wordFR]; rfl
theorem draw (x y c : Source) : Statement (.draw x y c) := by simp only [Statement, encode, opField_wordFSSS]; rfl
theorem slp (ms : Millis) : Statement (.slp ms) := by simp only [Statement, encode, opField_wordFD]; rfl
theorem cmp (r : Reg) (src : Source) : Statement (.cmp r src) := by simp only [Statement, encode, opField_wordFRS]; rfl
theorem rand (r : Reg) : Statement (.rand r) := by simp only [Statement, encode, opField_wordFR]; rfl
theorem cls : Statement .cls := by simp only [Statement, encode, opField_wordFN]; rfl
theorem cts : Statement .cts := by simp only [Statement, encode, opField_wordFN]; rfl
theorem render : Statement .render := by simp only [Statement, encode, opField_wordFN]; rfl
theorem halt : Statement .halt := by simp only [Statement, encode, opField_wordFN]; rfl

end Sys2Proof.Laws.EncodedOpcode
end

