-- ==== Sys2Proof/Tests/Slice0.lean ====
section
/-! SUPPORT. The model's own tests. Expected values come from spec/: the worked encodings of R121, the vectors and programs of
95_test_vectors.md and the examples of each rule. Then one witness for the hypotheses of each statement. -/

namespace Sys2Proof.Tests

open Sys2Proof.Machine

/-- A state with the given registers and Z, otherwise as after reset. -/
def st (a b c d e : Byte) (z : Bool) : State :=
  State.launch { a := a, b := b, c := c, d := d, e := e } [] z [] Inputs.none

/-- The state `s` with one line to come. -/
def withLine (s : State) (l : List Char) : State := { s with inputs := { s.inputs with lines := [.text l] } }

/-- The state `s` with one poll to come, at which `keys` are pending. -/
def withKeys (s : State) (keys : List KeyEvent) : State := { s with inputs := { s.inputs with keys := [keys] } }

/-- The state `s` with a program at index 0. -/
def withProg (s : State) (p : List Word) : State := { s with prog := p }

/-- The state `s` with one memory cell written. -/
def withCell (s : State) (a v : Byte) : State := s.memWrite a v

/-- A view of the next state of an outcome. -/
def view {α : Type} (o : Host.Outcome State Fault Refusal) (f : State → α) : Option α :=
  match o with
  | .next t => some (f t)
  | .fault _ => none
  | .refused _ => none

/-! ## Legal words: each check of R87 refuses (95 §2.1, illegal words) -/

theorem test_wf_refuses_opcode_00 : legalWord 0x000000000000#48 = false := by decide
theorem test_wf_refuses_opcode_19 : legalWord 0x190000000000#48 = false := by decide
theorem test_wf_refuses_unused_bit : legalWord 0x0F0000000001#48 = false := by decide
theorem test_wf_refuses_unused_bit_31 : legalWord 0x0D0080000000#48 = false := by decide
theorem test_wf_refuses_register_5 : legalWord 0x01A010500000#48 = false := by decide
theorem test_wf_refuses_slot_register_5 : legalWord 0x010000500000#48 = false := by decide
theorem test_wf_refuses_slot_payload : legalWord 0x010000800000#48 = false := by decide
theorem test_wf_refuses_indirect_payload : legalWord 0x010038000000#48 = false := by decide
theorem test_wf_refuses_store_literal : legalWord 0x020010500000#48 = false := by decide
theorem test_wf_refuses_store_register : legalWord 0x020000100000#48 = false := by decide
theorem test_wf_refuses_long_program : legalLength (List.replicate 65536 0#48) = false :=
  decide_eq_false (fun h => absurd (List.length_replicate (n := 65536) (a := 0#48) ▸ h) (by decide))
theorem test_wf_refuses_unsorted_memory : Memory.wf [(3, 1#8), (2, 1#8)] = false := by decide
theorem test_wf_refuses_listed_blank : Memory.wf [(3, 0#8)] = false := by decide
theorem test_wf_refuses_address_256 : Memory.wf [(256, 1#8)] = false := by decide
theorem test_wf_refuses_grid_key_2000 : Grid.wf [(2000, 65#8)] = false := by decide

/-- No two rows of the opcode map share an opcode. -/
theorem test_rows_distinct : (opcodeRows.map (fun row => row.op)).Pairwise (· ≠ ·) := by decide
theorem test_rows_count : opcodeRows.length = 24 := by decide

/-! ## The decoder rejects by name -/

theorem test_reject_opcode : decodeWord 0xFF0000000000#48 = .error .unassignedOpcode := by decide
theorem test_reject_unused : decodeWord 0x180000000001#48 = .error .nonzeroUnusedBit := by decide
theorem test_reject_mulh_bit_30 : decodeWord 0x080040000000#48 = .error .nonzeroUnusedBit := by decide
theorem test_reject_register : decodeWord 0x01A010500000#48 = .error .badRegister := by decide
theorem test_reject_slot : decodeWord 0x010000800000#48 = .error .badSlot := by decide
theorem test_reject_store : decodeWord 0x020010500000#48 = .error .slotNotMemory := by decide

/-! ## Every constructor's decoding, its word written out field by field from R81 to R86 -/

theorem test_decode_mov :
    decode (0b00000001#8 ++ 0b011#3 ++ 0b0000000#7 ++ 0b01#2 ++ 0b01111000#8 ++ 0#20) = some (.mov .D (.lit 120#8)) := by decide
theorem test_decode_store :
    decode (0b00000010#8 ++ 0b100#3 ++ 0b0000000#7 ++ 0b10#2 ++ 0b11111111#8 ++ 0#20) = some (.store .E (.abs 255#8)) := by
  decide
theorem test_decode_add :
    decode (0b00000011#8 ++ 0b000#3 ++ 0b0000000#7 ++ 0b00#2 ++ 0b00000001#8 ++ 0#20) = some (.add .A (.reg .B)) := by decide
theorem test_decode_sub :
    decode (0b00000100#8 ++ 0b010#3 ++ 0b0000000#7 ++ 0b01#2 ++ 0b00000001#8 ++ 0#20) = some (.sub .C (.lit 1#8)) := by decide
theorem test_decode_mul :
    decode (0b00000101#8 ++ 0b001#3 ++ 0b0000000#7 ++ 0b11#2 ++ 0b00000011#8 ++ 0#20) = some (.mul .B (.mem (.ind .D))) := by
  decide
theorem test_decode_div :
    decode (0b00000110#8 ++ 0b000#3 ++ 0b0000000#7 ++ 0b10#2 ++ 0b00000111#8 ++ 0#20) = some (.div .A (.mem (.abs 7#8))) := by
  decide
theorem test_decode_mod :
    decode (0b00000111#8 ++ 0b000#3 ++ 0b0000000#7 ++ 0b11#2 ++ 0b00000010#8 ++ 0#20) = some (.mod .A (.mem (.ind .C))) := by
  decide
theorem test_decode_mulh :
    decode (0b00001000#8 ++ 0b010#3 ++ 0b000#3 ++ 0b001#3 ++ 0#31) = some (.mulh .C .A .B) := by decide
theorem test_decode_jmp : decode (0b00001001#8 ++ 0#24 ++ 0b1111111111111111#16) = some (.jmp 65535#16) := by decide
theorem test_decode_jz : decode (0b00001010#8 ++ 0#24 ++ 0b0000000000001010#16) = some (.jz 10#16) := by decide
theorem test_decode_jnz : decode (0b00001011#8 ++ 0#24 ++ 0b0000000000000001#16) = some (.jnz 1#16) := by decide
theorem test_decode_loop :
    decode (0b00001100#8 ++ 0b001#3 ++ 0#21 ++ 0b0000000000000010#16) = some (.loop 2#16 .B) := by decide
theorem test_decode_print : decode (0b00001101#8 ++ 0b010#3 ++ 0#6 ++ 0b0#1 ++ 0#30) = some (.print .C true) := by decide
theorem test_decode_printch : decode (0b00001110#8 ++ 0b000#3 ++ 0#6 ++ 0b1#1 ++ 0#30) = some (.printch .A false) := by decide
theorem test_decode_input : decode (0b00001111#8 ++ 0b000#3 ++ 0#37) = some (.input .A) := by decide
theorem test_decode_inkey : decode (0b00010000#8 ++ 0b010#3 ++ 0#37) = some (.inkey .C) := by decide
theorem test_decode_draw :
    decode (0b00010001#8 ++ 0#10 ++ 0b00#2 ++ 0b00000000#8 ++ 0b00#2 ++ 0b00000001#8 ++ 0b11#2 ++ 0b00000010#8) =
      some (.draw (.reg .A) (.reg .B) (.mem (.ind .C))) := by decide
theorem test_decode_slp :
    decode (0b00010010#8 ++ 0#8 ++ 0b00000000000000000000001111101000#32) = some (.slp 1000#32) := by decide
theorem test_decode_cmp :
    decode (0b00010011#8 ++ 0b100#3 ++ 0b0000000#7 ++ 0b01#2 ++ 0b01011000#8 ++ 0#20) = some (.cmp .E (.lit 88#8)) := by decide
theorem test_decode_rand : decode (0b00010100#8 ++ 0b001#3 ++ 0#37) = some (.rand .B) := by decide
theorem test_decode_cls : decode (0b00010101#8 ++ 0#40) = some .cls := by decide
theorem test_decode_cts : decode (0b00010110#8 ++ 0#40) = some .cts := by decide
theorem test_decode_render : decode (0b00010111#8 ++ 0#40) = some .render := by decide
theorem test_decode_halt : decode (0b00011000#8 ++ 0#40) = some .halt := by decide

theorem test_decodeTableWord : decodeTableWord 48 0x086E00000000 = some (.mulh .D .D .E) := by decide

/-! ## Instructions (95 §2.2 to §2.6) -/

theorem test_mov_indirect_into_base :
    view (exec (.mov .D (.mem (.ind .D))) (withCell (st 0#8 0#8 0#8 4#8 0#8 false) 4#8 9#8))
      (fun t => (t.reg .D, t.z, t.pc)) = some (9#8, false, 1#16) := by decide
theorem test_mov_zero : view (exec (.mov .A (.lit 0#8)) (st 9#8 0#8 0#8 0#8 0#8 false)) (fun t => (t.reg .A, t.z)) =
    some (0#8, true) := by decide
theorem test_store_at_own_value :
    view (exec (.store .B (.ind .B)) (st 0#8 5#8 0#8 0#8 0#8 true)) (fun t => (t.mem, t.z, t.pc)) =
      some ([(5, 5#8)], true, 1#16) := by decide
theorem test_store_zero_removes_entry :
    view (exec (.store .A (.abs 255#8)) (withCell (st 0#8 0#8 0#8 0#8 0#8 false) 255#8 7#8)) (fun t => (t.mem, t.z)) =
      some ([], false) := by decide
theorem test_add_wraps : view (exec (.add .A (.reg .B)) (st 255#8 1#8 0#8 0#8 0#8 false)) (fun t => (t.reg .A, t.z)) =
    some (0#8, true) := by decide
theorem test_add_indirect_base_is_destination :
    view (exec (.add .A (.mem (.ind .A))) (withCell (st 3#8 0#8 0#8 0#8 0#8 false) 3#8 4#8)) (fun t => (t.reg .A, t.z)) =
      some (7#8, false) := by decide
theorem test_sub_wraps : view (exec (.sub .A (.lit 1#8)) (st 0#8 0#8 0#8 0#8 0#8 true)) (fun t => (t.reg .A, t.z)) =
    some (255#8, false) := by decide
theorem test_sub_order : view (exec (.sub .A (.lit 255#8)) (st 1#8 0#8 0#8 0#8 0#8 true)) (fun t => t.reg .A) = some 2#8 := by
  decide
theorem test_mul_low : view (exec (.mul .A (.lit 255#8)) (st 255#8 0#8 0#8 0#8 0#8 true)) (fun t => (t.reg .A, t.z)) =
    some (1#8, false) := by decide
theorem test_mul_zero_low_byte : view (exec (.mul .A (.reg .A)) (st 16#8 0#8 0#8 0#8 0#8 false)) (fun t => (t.reg .A, t.z)) =
    some (0#8, true) := by decide
theorem test_div_truncates : view (exec (.div .A (.lit 2#8)) (st 255#8 0#8 0#8 0#8 0#8 true)) (fun t => (t.reg .A, t.z)) =
    some (127#8, false) := by decide
theorem test_div_by_zero_register :
    view (exec (.div .A (.reg .A)) (st 0#8 0#8 0#8 0#8 0#8 true)) (fun t => (t.run, t.reg .A, t.z, t.pc)) =
      some (.faulted .divByZero 0#16, 0#8, true, 0#16) := by decide
theorem test_mod_below : view (exec (.mod .A (.lit 5#8)) (st 3#8 0#8 0#8 0#8 0#8 true)) (fun t => (t.reg .A, t.z)) =
    some (3#8, false) := by decide
theorem test_mod_by_zero_indirect :
    view (exec (.mod .A (.mem (.ind .C))) (st 9#8 0#8 3#8 0#8 0#8 false)) (fun t => (t.faultRecord, t.reg .A)) =
      some (some (.divByZero, 0#16), 9#8) := by decide
theorem test_mulh_high : view (exec (.mulh .A .A .A) (st 200#8 0#8 0#8 0#8 0#8 true)) (fun t => (t.reg .A, t.z)) =
    some (156#8, false) := by decide
theorem test_mulh_zero_high : view (exec (.mulh .C .A .B) (st 15#8 17#8 9#8 0#8 0#8 false)) (fun t => (t.reg .C, t.z)) =
    some (0#8, true) := by decide
theorem test_cmp_equal : view (exec (.cmp .A (.lit 5#8)) (st 5#8 0#8 0#8 0#8 0#8 false)) (fun t => (t.reg .A, t.z)) =
    some (5#8, true) := by decide
theorem test_cmp_differs : view (exec (.cmp .A (.reg .B)) (st 0#8 1#8 0#8 0#8 0#8 true)) (fun t => t.z) = some false := by decide
theorem test_jmp : view (exec (.jmp 65535#16) State.reset) (fun t => t.pc) = some 65535#16 := by decide
theorem test_jz_taken : view (exec (.jz 7#16) (st 0#8 0#8 0#8 0#8 0#8 true)) (fun t => t.pc) = some 7#16 := by decide
theorem test_jz_not : view (exec (.jz 7#16) (st 0#8 0#8 0#8 0#8 0#8 false)) (fun t => t.pc) = some 1#16 := by decide
theorem test_jnz_taken : view (exec (.jnz 7#16) (st 0#8 0#8 0#8 0#8 0#8 false)) (fun t => t.pc) = some 7#16 := by decide
theorem test_jnz_not : view (exec (.jnz 7#16) (st 0#8 0#8 0#8 0#8 0#8 true)) (fun t => t.pc) = some 1#16 := by decide
theorem test_loop_taken : view (exec (.loop 7#16 .B) (st 0#8 3#8 0#8 0#8 0#8 true)) (fun t => (t.pc, t.reg .B, t.z)) =
    some (7#16, 3#8, true) := by decide
theorem test_loop_not : view (exec (.loop 7#16 .B) (st 1#8 0#8 0#8 0#8 0#8 false)) (fun t => (t.pc, t.z)) =
    some (1#16, false) := by decide
theorem test_halt : view (exec .halt State.reset) (fun t => (t.run, t.pc)) = some (.halted, 0#16) := by decide
theorem test_print : view (exec (.print .A true) (st 15#8 0#8 0#8 0#8 0#8 true)) (fun t => (t.out, t.z, t.pc)) =
    some ([.print 15#8 true], true, 1#16) := by decide
theorem test_printch : view (exec (.printch .A false) (st 10#8 0#8 0#8 0#8 0#8 false)) (fun t => t.out) =
    some [.printCh 10#8 false] := by decide
theorem test_input_numeric :
    view (exec (.input .A) (withLine State.reset ['5', '\r', '\n'])) (fun t => (t.reg .A, t.z, t.pc, t.inputs.lines)) =
      some (5#8, false, 1#16, []) := by decide
theorem test_input_256_faults :
    view (exec (.input .A) (withLine (st 3#8 0#8 0#8 0#8 0#8 false) ['2', '5', '6'])) (fun t => (t.run, t.reg .A, t.pc)) =
      some (.faulted .invalidInput 0#16, 3#8, 0#16) := by decide
theorem test_inkey_none : view (exec (.inkey .A) (withKeys (st 3#8 0#8 0#8 0#8 0#8 false) [])) (fun t => (t.reg .A, t.z)) =
    some (0#8, true) := by decide
theorem test_inkey_escape :
    view (exec (.inkey .A) (withKeys State.reset [.escape])) (fun t => (t.reg .A, t.z, t.inputs.keys)) =
      some (27#8, false, []) := by decide
theorem test_rand_keeps_z :
    view (exec (.rand .B) { st 0#8 7#8 0#8 0#8 0#8 false with inputs := { Inputs.none with rands := [0#8] } })
      (fun t => (t.reg .B, t.z, t.pc)) = some (0#8, false, 1#16) := by decide
theorem test_draw_column_row :
    view (exec (.draw (.reg .A) (.reg .B) (.mem (.ind .C))) (withCell (st 2#8 3#8 9#8 0#8 0#8 false) 9#8 66#8))
      (fun t => (t.cell 3 2, t.cell 2 3, t.pc)) = some (66#8, 32#8, 1#16) := by decide
theorem test_draw_control_and_bounds :
    (view (exec (.draw (.lit 5#8) (.lit 5#8) (.lit 159#8)) (State.reset.dispWrite 5 5 65#8)) (fun t => t.cell 5 5),
      view (exec (.draw (.lit 80#8) (.lit 0#8) (.lit 81#8)) State.reset) (fun t => (t.disp, t.pc))) =
      (some 32#8, some ([], 1#16)) := by decide
theorem test_cls : view (exec .cls (State.reset.dispWrite 3 2 66#8)) (fun t => (t.disp, t.out, t.pc)) = some ([], [], 1#16) := by
  decide
theorem test_render_snapshot :
    view (exec .render (State.reset.dispWrite 0 65 65#8)) (fun t => (t.out = [.render t.dispRead], t.pc)) =
      some (True, 1#16) := by simp [view, exec, execRender, State.emit, State.advance, State.dispRead, State.cell,
        State.dispWrite, State.reset, State.launch]
theorem test_cts : view (exec .cts (State.reset.dispWrite 3 2 66#8)) (fun t => (t.out, t.cell 3 2)) =
    some ([.clearTerminal], 66#8) := by decide
theorem test_slp : view (exec (.slp 1000#32) State.reset) (fun t => (t.out, t.pc)) = some ([.sleep 1000#32], 1#16) := by decide

/-! ## Steps and loading -/

theorem test_step_illegal :
    view (step (State.reset.withFetchWord 48 0x020010500000)) (fun t => (t.run, t.pc)) =
      some (.faulted .illegalInstruction 0#16, 0#16) := by decide
theorem test_step_empty_program_halts : view (step State.reset) (fun t => (t.run, t.pc)) = some (.halted, 0#16) := by decide
theorem test_step_runs_fetch_word :
    view (step (State.reset.withFetchWord 48 0x010010500000)) (fun t => (t.reg .A, t.pc)) = some (5#8, 1#16) := by decide
theorem test_fault_codes : [Cause.divByZero, .invalidInput, .illegalInstruction].map Cause.code = [1, 2, 3] := by decide

/-! ## Host adapters (95 §2.5) -/

theorem test_line_numeric_first : classifyLine (.text ['5', '\n']) = .num 5#8 := by decide
theorem test_line_leading_zeros : classifyLine (.text ['0', '0', '7']) = .num 7#8 := by decide
theorem test_line_space : classifyLine (.text [' ', '\n']) = .char 32#8 := by decide
theorem test_line_space_digit : classifyLine (.text [' ', '7']) = .invalid := by decide
theorem test_line_end : classifyLine .endOfStream = .empty := by decide
theorem test_print_text : eventText (.print 255#8 false) = ['2', '5', '5'] := by decide
theorem test_print_zero : eventText (.print 0#8 false) = ['0'] := by decide
theorem test_printch_text : eventText (.printCh 88#8 false) = ['X'] := by decide

/-! ## The assembler (95 §2.7) -/

theorem test_asm_labels :
    assemble "MOV C 3; loop: PRINT C; SUB C 1; JNZ loop; HALT".toList =
      .ok [.mov .C (.lit 3#8), .print .C true, .sub .C (.lit 1#8), .jnz 1#16, .halt] := by decide
theorem test_asm_trailing_label_and_comment :
    assemble "JMP end // go\n MOV A 1\nend:".toList = .ok [.jmp 2#16, .mov .A (.lit 1#8)] := by decide
theorem test_asm_errors :
    (["mov A 5", "MOV a 5", "MOV A 256", "MOV A [F]", "MOV A []", "STORE A B", "MOV A", "JMP nowhere", "JMP 65536", "PRINT A -n",
      "SLP 4294967296", "x: HALT; x: HALT", ": HALT", "AND A B"].map (fun t => (assemble t.toList).toOption.isSome)).any id =
      false := by decide
theorem test_asm_error_names_segment :
    assemble "HALT\nHALT; MOV A B C ".toList =
      .error { kind := .operandCount, line := 2, segment := "MOV A B C".toList } := by decide

/-! ## Witnesses: the hypotheses of each statement can be met -/

/-- A running state whose next word is MOV A 5. -/
def movState : State := withProg State.reset [0x010010500000#48]
/-- A running state whose next word is DIV A A, with A = 0. -/
def divState : State := withProg State.reset [0x060000000000#48]
/-- A running state whose next word is INPUT A, with an invalid line to come. -/
def badInputState : State := withLine (withProg State.reset [0x0F0000000000#48]) ['a', 'b']
/-- A running state whose next word is INPUT A, with a silent host. -/
def silentState : State :=
  { withProg State.reset [0x0F0000000000#48] with inputs := { Inputs.none with lineSilent := true } }
/-- A running state whose next word is illegal. -/
def illegalState : State := withProg State.reset [0x190000000000#48]
/-- A running state whose next word is HALT. -/
def haltState : State := withProg State.reset [0x180000000000#48]

theorem witness_EncodeInvertsDecode : decode 0x084080000000#48 = some (.mulh .C .A .B) := by decide
theorem witness_StepRunsDecodedInstruction :
    movState.run = .running ∧ movState.prog[movState.pc.toNat]? = some 0x010010500000#48 ∧
      decode 0x010010500000#48 = some (.mov .A (.lit 5#8)) := by decide
theorem witness_IllegalWordFaults :
    illegalState.run = .running ∧ illegalState.prog[illegalState.pc.toNat]? = some 0x190000000000#48 ∧
      legalWord 0x190000000000#48 = false := by decide
theorem witness_RunEndsByHaltEndOfProgramOrFault :
    State.reset.run = .running ∧ State.reset.prog.length ≤ State.reset.pc.toNat ∧ State.reset.halt.run = .halted ∧
      (State.reset.raiseFault .divByZero).run = .faulted .divByZero 0#16 ∧
      ∃ t, step haltState = .next t ∧ t.run = .halted ∧ haltState.pc.toNat < haltState.prog.length :=
  ⟨rfl, by decide, rfl, rfl, _, rfl, rfl, by decide⟩
/-- The last address, through a register that is the destination too. -/
theorem witness_EffectiveAddressIsUnscaledAndNeverFaults :
    ((withCell (st 255#8 0#8 0#8 0#8 0#8 false) 255#8 3#8).resolve (.mem (.ind .A))).toNat ≠ 0 := by decide
theorem witness_FinalStatesHaveNoStep :
    State.reset.halt.run = .halted ∧ (State.reset.raiseFault .divByZero).run = .faulted .divByZero 0#16 := by decide
theorem witness_RunningCoreStepsUnlessInputWaits :
    movState.run = .running ∧ silentState.run = .running ∧ (view (step movState) (fun _ => true)) = some true ∧
      silentState.inputs.lines = [] ∧ silentState.inputs.lineSilent = true := by decide
theorem witness_silent_input_waits : step silentState = .fault .waitsForLine := rfl
/-- The last index of the longest program: pc 65534 of 65535 words. -/
theorem witness_SequentialInstructionsAdvancePc :
    ∃ s t : State, s.run = .running ∧ setsPc .cts = false ∧ exec .cts s = .next t ∧ t.run = .running ∧
      legalLength s.prog = true ∧ s.fetch.isSome = true ∧ s.pc = 65534#16 :=
  ⟨{ State.reset with pc := 65534#16, prog := List.replicate 65535 0x160000000000#48 }, _, rfl, rfl, rfl, rfl,
    decide_eq_true (Nat.le_of_eq List.length_replicate), by rw [State.fetch, List.getElem?_replicate]; rfl, rfl⟩
theorem witness_next_state : ∃ t, exec (.mov .A (.lit 5#8)) movState = .next t ∧ step movState = .next t := ⟨_, rfl, rfl⟩
theorem witness_OnlyListedRegistersAreWritten :
    (∃ t, exec (.mov .A (.lit 5#8)) movState = .next t) ∧ destReg (.mov .A (.lit 5#8)) ≠ some .B :=
  ⟨⟨_, rfl⟩, by decide⟩
theorem witness_ZeroFlagIsOverwrittenNeverAccumulated :
    (∃ t, exec (.mov .A (.lit 5#8)) movState = .next t ∧ t.run = .running) ∧ writesZ (.mov .A (.lit 5#8)) = true ∧
      (∃ t, exec (.rand .A) movState = .next t) ∧ writesZ (.rand .A) = false :=
  ⟨⟨_, rfl, rfl⟩, rfl, ⟨_, rfl⟩, rfl⟩
theorem witness_OutputGrowsByTheEmittedEvent :
    (∃ t, exec (.print .A true) movState = .next t) ∧ ∃ t, exec .cls movState = .next t := ⟨⟨_, rfl⟩, ⟨_, rfl⟩⟩
theorem witness_OnlyDrawAndClsWriteTheDisplay :
    (∃ t, exec .render movState = .next t) ∧ (∀ x y c, Instr.render ≠ .draw x y c) ∧ Instr.render ≠ .cls :=
  ⟨⟨_, rfl⟩, by intros; simp, by simp⟩
theorem witness_ProgramStoreIsImmutable : ∃ t, step movState = .next t := ⟨_, rfl⟩
theorem witness_OnlyListedConditionsFault :
    divState.run = .running ∧ badInputState.run = .running ∧
      (∃ t, exec (.div .A (.reg .A)) divState = .next t ∧ t.run = .faulted .divByZero 0#16) ∧
      (∃ t, exec (.mod .A (.reg .A)) divState = .next t ∧ t.run = .faulted .divByZero 0#16) ∧
      (∃ t, exec (.input .A) badInputState = .next t ∧ t.run = .faulted .invalidInput 0#16) :=
  ⟨rfl, rfl, ⟨_, rfl, rfl⟩, ⟨_, rfl, rfl⟩, ⟨_, rfl, rfl⟩⟩
theorem witness_FaultsArePrecise :
    (∃ t, step divState = .next t ∧ t.run = .faulted .divByZero 0#16) ∧
      (∃ t, step badInputState = .next t ∧ t.run = .faulted .invalidInput 0#16) ∧
      (∃ t, step illegalState = .next t ∧ t.run = .faulted .illegalInstruction 0#16) :=
  ⟨⟨_, rfl, rfl⟩, ⟨_, rfl, rfl⟩, ⟨_, rfl, rfl⟩⟩
theorem witness_OnlyHaltStopsTheRunEarly :
    (∃ t, step haltState = .next t ∧ t.run = .halted) ∧ ∃ t, step State.reset = .next t ∧ t.run = .halted :=
  ⟨⟨_, rfl, rfl⟩, ⟨_, rfl, rfl⟩⟩
theorem witness_OutputTraceIsNeverRead : ∃ t, step (withProg State.reset [0x0D0000000000#48]) = .next t ∧ t.out ≠ [] :=
  ⟨_, rfl, by decide⟩
theorem witness_LoaderStartsAtIndexZero :
    (List.replicate 65535 0#48).length ≤ 65535 ∧ 65535 < (List.replicate 65536 0#48).length := by
  rw [List.length_replicate, List.length_replicate]; decide
theorem witness_LoadedStateSatisfiesInvariant :
    Memory.wf [(0, 1#8), (255, 2#8)] = true ∧
      ∃ s, loadProgram Regs.zero [(0, 1#8), (255, 2#8)] true [0#48] Inputs.none = .ok s := ⟨by decide, _, rfl⟩
/-- MOV A 5 at index 0 from a state that has the invariant. -/
theorem witness_StepKeepsInvariant : movState.Inv ∧ ∃ t, step movState = .next t :=
  ⟨⟨rfl, rfl, fun _ _ _ _ => rfl, rfl, rfl, trivial⟩, _, rfl⟩
theorem witness_MemoryWriteSetsOneCell :
    Memory.wf (withCell State.reset 255#8 7#8).mem = true ∧ (∃ t, exec (.mov .A (.lit 5#8)) movState = .next t) ∧
      ∀ r m, Instr.mov .A (.lit 5#8) ≠ .store r m := ⟨by decide, ⟨_, rfl⟩, by intros; simp⟩
theorem witness_DisplayPrimitives : 24 < 25 ∧ 79 < 80 ∧ Grid.wf (State.reset.dispWrite 24 79 88#8).disp = true := by decide
theorem witness_StoreWritesOneCell : Memory.wf State.reset.mem = true := by decide
theorem witness_DivGivesTheQuotient : (State.reset.resolve (.lit 1#8)).toNat ≠ 0 := by decide
theorem witness_ModGivesTheRemainder : (State.reset.resolve (.lit 255#8)).toNat ≠ 0 := by decide
theorem witness_DivisionByZeroFaults :
    (State.reset.resolve (.lit 0#8)).toNat = 0 ∧ (State.reset.resolve (.reg .B)).toNat = 0 ∧
      (State.reset.resolve (.mem (.abs 7#8))).toNat = 0 ∧ (State.reset.resolve (.mem (.ind .C))).toNat = 0 := by decide
theorem witness_MulhAndMulGiveTheWholeProduct :
    (∃ t, exec (.mulh .C .A .B) State.reset = .next t) ∧ ∃ u, exec (.mul .A (.reg .B)) State.reset = .next u :=
  ⟨⟨_, rfl⟩, ⟨_, rfl⟩⟩
theorem witness_DivAndModRebuildTheDividend :
    (State.reset.resolve (.lit 7#8)).toNat ≠ 0 ∧ (∃ t, exec (.div .A (.lit 7#8)) State.reset = .next t) ∧
      ∃ u, exec (.mod .A (.lit 7#8)) State.reset = .next u := ⟨by decide, ⟨_, rfl⟩, ⟨_, rfl⟩⟩
theorem witness_PrintedNumbersReadBack :
    classifyLine (.text (List.replicate 3 '0' ++ decimalText (255#8).toNat ++ ['\r', '\n'])) = .num 255#8 := by decide
theorem witness_LineAdapterClassifies :
    (['2', '5', '5'].all isDigitChar = true ∧ digitsValue 0 ['2', '5', '5'] ≤ 255) ∧
      (isDigitChar 'x' = false ∧ isDigitChar (Char.ofNat 0x100) = false) ∧
      (2 ≤ ['2', '5', '6'].length ∧ 255 < digitsValue 0 ['2', '5', '6']) ∧ ['a', 'b'].all isDigitChar = false ∧
      ['7'].getLast? ≠ some '\n' ∧ ['7'].getLast? ≠ some '\r' := by decide
theorem witness_InputStoresTheAnswer :
    (movState.inputs.lines = [] ∧ movState.lineEvent.isSome = true) ∧
      ((withLine movState ['7']).lineEvent = some (.text ['7']) ∧ answerByte (classifyLine (.text ['7'])) = some 7#8) ∧
      ((withLine movState ['x']).lineEvent = some (.text ['x']) ∧ answerByte (classifyLine (.text ['x'])) = some 120#8) ∧
      ((withLine movState []).lineEvent = some (.text []) ∧ answerByte (classifyLine (.text [])) = some 0#8) := by decide
theorem witness_InputFaultsOnAnInvalidLine :
    badInputState.lineEvent = some (.text ['a', 'b']) ∧ classifyLine (.text ['a', 'b']) = .invalid := by decide
theorem witness_InputWaitsForASilentHost :
    (silentState.inputs.lines = [] ∧ silentState.inputs.lineSilent = true) ∧ State.reset.inputs.lineSilent = false := by decide
theorem witness_InkeyReportsAPendingKey :
    (withKeys State.reset []).pendingKeys = [] ∧ (withKeys State.reset [.enter, .tab]).pendingKeys ≠ [] := by decide
theorem witness_RandStoresAByteAndKeepsZ :
    ({ State.reset with inputs := { Inputs.none with rands := [42#8] } } : State).inputs.rands = 42#8 :: [] := by decide
theorem witness_DrawWritesOneCellOrNone :
    ((State.reset.resolve (.lit 79#8)).toNat < 80 ∧ (State.reset.resolve (.lit 24#8)).toNat < 25 ∧
        Grid.wf State.reset.disp = true) ∧
      80 ≤ (State.reset.resolve (.lit 80#8)).toNat ∧ 25 ≤ (State.reset.resolve (.lit 25#8)).toNat := by decide
theorem witness_LabelAndNumericTargetsAgree :
    lookupLabel [(['e', 'n', 'd'], 65535)] ['e', 'n', 'd'] = some 65535 ∧ 65535 ≤ 65535 ∧
      ['e', 'n', 'd'].all isDigitChar = false := by decide
theorem witness_OneInstructionPerStatement :
    (collect (segmentsOf "HALT; end:".toList) [] []).toOption.isSome = true ∧
      assemble "HALT; end:".toList = .ok [.halt] := by decide
theorem witness_AssembledProgramsNeverRaiseIllegalInstruction :
    assembleImage "MOV A 5".toList = .ok movState.prog ∧ ∃ t, step movState = .next t := ⟨by decide, _, rfl⟩

end Sys2Proof.Tests
end

/-! ## The decoder accepts exactly the legal words (R86, R87)

The opcode map checks a word by masks, the decoder by fields. Both are brought to one form: the opcode, the bits the format
leaves unused (`Format.unused`, as fields), and the operands. -/

namespace Sys2Proof

/-- The fields, as lowest bit and width, that a format leaves unused below the opcode (R85). -/
def Format.unused : Format → List (Nat × Nat)
  | .fn => [(0, 40)]
  | .fr => [(0, 37)]
  | .frn => [(31, 6), (0, 30)]
  | .frs => [(30, 7), (0, 20)]
  | .frm => [(30, 7), (0, 20)]
  | .frrr => [(0, 31)]
  | .fj => [(16, 24)]
  | .fjr => [(16, 21)]
  | .fsss => [(30, 10)]
  | .fd => [(32, 8)]

/-- Checks 2 to 5 of R87 for a format, field by field. -/
def Format.fits (f : Format) (w : Word) : Bool :=
  f.unused.all (fun fld => zeroBits w fld.1 fld.2) && legalOperands f w

/-- The bits of one field. -/
def fieldMask (fld : Nat × Nat) : Word := (BitVec.allOnes fld.2).setWidth 48 <<< fld.1

/-- The bits of several fields. -/
def fieldsMask (flds : List (Nat × Nat)) : Word := flds.foldr (fun fld m => fieldMask fld ||| m) 0#48

/-! ### The opcode map -/

theorem getLsbD_fieldMask (fld : Nat × Nat) (i : Nat) :
    (fieldMask fld).getLsbD i = (decide (i < 48) && decide (fld.1 ≤ i) && decide (i < fld.1 + fld.2)) := by
  simp only [fieldMask, BitVec.getLsbD_shiftLeft, BitVec.getLsbD_setWidth, BitVec.getLsbD_allOnes]
  rw [Bool.eq_iff_iff]
  simp only [Bool.and_eq_true, decide_eq_true_eq, Bool.not_eq_true', decide_eq_false_iff_not]
  omega

/-- A field is zero exactly when its mask selects no bit. -/
theorem zeroBits_iff_mask (w : Word) (lo len : Nat) : zeroBits w lo len = true ↔ w &&& fieldMask (lo, len) = 0#48 := by
  simp only [zeroBits, beq_iff_eq, BitVec.eq_of_getLsbD_eq_iff, BitVec.getLsbD_extractLsb', BitVec.getLsbD_and,
    getLsbD_fieldMask, BitVec.getLsbD_zero, Bool.and_eq_false_iff, decide_eq_false_iff_not]
  constructor
  · intro h i hi
    by_cases hin : lo ≤ i ∧ i < lo + len
    · have hbit := h (i - lo) (by omega)
      rw [Nat.add_sub_cancel' hin.1] at hbit
      exact .inl (hbit.resolve_left (by omega))
    · exact .inr (by omega)
  · intro h i hi
    by_cases hlt : lo + i < 48
    · exact .inr ((h (lo + i) hlt).resolve_right (by omega))
    · exact .inr (BitVec.getLsbD_of_ge w _ (by omega))

theorem zeroBits_all_iff_mask (w : Word) (flds : List (Nat × Nat)) :
    flds.all (fun fld => zeroBits w fld.1 fld.2) = true ↔ w &&& fieldsMask flds = 0#48 := by
  induction flds with
  | nil => simp [fieldsMask]
  | cons fld rest ih =>
    have hmask : w &&& fieldsMask (fld :: rest) = (w &&& fieldMask fld) ||| (w &&& fieldsMask rest) :=
      BitVec.and_or_distrib_left
    rw [List.all_cons, Bool.and_eq_true, zeroBits_iff_mask, ih, hmask, BitVec.or_eq_zero_iff]

/-- Each row of the opcode map: its mask is the opcode byte and the unused fields of its format, its match bits the opcode
byte alone. -/
theorem opcodeRow_masks : ∀ row ∈ opcodeRows, row.matchBits = BitVec.ofNat 8 row.op ++ 0#40 ∧
    row.mask = fieldMask (40, 8) ||| fieldsMask row.format.unused ∧
    row.matchBits &&& fieldsMask row.format.unused = 0#48 ∧ row.op < 256 := by decide

/-- The opcode determines the row. -/
theorem opcodeRow_eq_of_op : ∀ row ∈ opcodeRows, ∀ row' ∈ opcodeRows, row.op = row'.op → row = row' := by decide

/-- The opcode byte in its place. -/
theorem and_opMask (w : Word) : w &&& fieldMask (40, 8) = opField w ++ 0#40 := by
  apply BitVec.eq_of_getLsbD_eq
  intro i hi
  simp only [BitVec.getLsbD_and, getLsbD_fieldMask, opField, BitVec.getLsbD_append, BitVec.getLsbD_extractLsb',
    BitVec.getLsbD_zero]
  by_cases h : i < 40
  · simp [h]
  · have hidx : 40 + (i - 40) = i := by omega
    simp [h, hidx, show 40 ≤ i by omega, show i < 48 by omega, show i - 40 < 8 by omega]

/-- A word fits a row exactly when it has the row's opcode and fits the row's format. -/
theorem accepts_iff {row : OpcodeRow} (hrow : row ∈ opcodeRows) (w : Word) :
    row.accepts w = true ↔ (opField w).toNat = row.op ∧ row.format.fits w = true := by
  obtain ⟨hmatch, hmask, hdisj, -⟩ := opcodeRow_masks row hrow
  simp only [OpcodeRow.accepts, Format.fits, Bool.and_eq_true, beq_iff_eq, and_assoc, zeroBits_all_iff_mask]
  refine and_congr_right fun hop => and_congr_left fun _ => ?_
  have hword : w &&& row.mask = row.matchBits ||| (w &&& fieldsMask row.format.unused) := by
    rw [hmask, BitVec.and_or_distrib_left, and_opMask, hmatch, ← hop, opField, BitVec.ofNat_toNat, BitVec.setWidth_eq]
  rw [hword]
  constructor
  · intro h
    calc w &&& fieldsMask row.format.unused
        = (row.matchBits ||| (w &&& fieldsMask row.format.unused)) &&& fieldsMask row.format.unused := by
          rw [BitVec.and_or_distrib_right, hdisj, BitVec.and_assoc, BitVec.and_self, BitVec.zero_or]
      _ = 0#48 := by rw [h, hdisj]
  · intro h
    rw [h, BitVec.or_zero]

/-- A word with a row's opcode is legal exactly when it fits the row's format. -/
theorem legalWord_of_row {row : OpcodeRow} (hrow : row ∈ opcodeRows) {w : Word} (hop : (opField w).toNat = row.op) :
    legalWord w = row.format.fits w := by
  rw [Bool.eq_iff_iff, legalWord, List.any_eq_true]
  constructor
  · rintro ⟨row', hrow', hacc⟩
    obtain ⟨hop', hfits⟩ := (accepts_iff hrow' w).mp hacc
    rwa [opcodeRow_eq_of_op row hrow row' hrow' (hop.symm.trans hop')]
  · intro hfits
    exact ⟨row, hrow, (accepts_iff hrow w).mpr ⟨hop, hfits⟩⟩

/-- A legal word has the opcode of some row. -/
theorem exists_row_of_legalWord {w : Word} (h : legalWord w = true) :
    ∃ row ∈ opcodeRows, (opField w).toNat = row.op := by
  obtain ⟨row, hrow, hacc⟩ := List.any_eq_true.mp h
  exact ⟨row, hrow, ((accepts_iff hrow w).mp hacc).1⟩

/-! ### The decoder -/

@[simp] theorem toOption_ok {α : Type} (x : α) : (Except.ok x : Except Reject α).toOption = some x := rfl

@[simp] theorem toOption_error {α : Type} (e : Reject) : (Except.error e : Except Reject α).toOption = none := rfl

@[simp] theorem toOption_map_isSome {α β : Type} (x : Except Reject α) (f : α → β) :
    (x.map f).toOption.isSome = x.toOption.isSome := by
  cases x <;> rfl

/-- A check before a computation is one more condition for its success. -/
theorem toOption_ite_error_isSome {α : Type} (b : Bool) (x : Except Reject α) (e : Reject) :
    (if b = true then x else .error e).toOption.isSome = (b && x.toOption.isSome) := by
  cases b <;> rfl

/-- A slot's payload decodes to a register exactly when it is legal (R82). -/
theorem decodePayloadReg_isOk (v : Byte) : (decodePayloadReg v).toOption.isSome = legalRegPayload v := by
  unfold decodePayloadReg legalRegPayload
  rw [← decodeReg_isOk]
  by_cases hz : v.extractLsb' 3 5 = 0#5
  · cases hr : decodeReg (v.extractLsb' 0 3) <;> simp [hz]
  · simp [hz]

/-- A slot's mode is one of the four of R82. -/
theorem slotMode_cases (m : BitVec 2) : m = 0b00#2 ∨ m = 0b01#2 ∨ m = 0b10#2 ∨ m = 0b11#2 := by
  revert m
  decide

/-- A slot decodes exactly when it is legal (R82). -/
theorem decodeSlot_isOk (sl : BitVec 10) : (decodeSlot sl).toOption.isSome = legalSlot sl := by
  unfold decodeSlot legalSlot
  rcases slotMode_cases (sl.extractLsb' 8 2) with h | h | h | h <;> simp [h, decodePayloadReg_isOk]

/-- A slot decodes to a memory reference exactly when it is a legal memory slot (R84). -/
theorem decodeMemSlot_isOk (sl : BitVec 10) : (decodeMemSlot sl).toOption.isSome = legalMemSlot sl := by
  have hpay := decodePayloadReg_isOk (sl.extractLsb' 0 8)
  unfold decodeMemSlot decodeSlot legalMemSlot legalSlot
  rcases slotMode_cases (sl.extractLsb' 8 2) with h | h | h | h
  · cases hr : decodePayloadReg (sl.extractLsb' 0 8) <;> simp [h, hr, Except.map]
  · simp [h]
  · simp [h]
  · cases hr : decodePayloadReg (sl.extractLsb' 0 8) <;> simp [h, hr, Except.map] <;> simpa [hr] using hpay

/-! Each format's decoder succeeds exactly on the words that fit the format. -/

section
variable (w : Word)

theorem decodeFN_isOk (i : Instr) : (decodeFN i w).toOption.isSome = Format.fits .fn w := by
  simp [decodeFN, toOption_ite_error_isSome, Format.fits, Format.unused, legalOperands]

theorem decodeFR_isOk (mk : Reg → Instr) : (decodeFR mk w).toOption.isSome = Format.fits .fr w := by
  simp [decodeFR, toOption_ite_error_isSome, Format.fits, Format.unused, legalOperands, ← decodeReg_isOk, r1Field]

theorem decodeFRN_isOk (mk : Reg → Bool → Instr) : (decodeFRN mk w).toOption.isSome = Format.fits .frn w := by
  simp only [decodeFRN, toOption_ite_error_isSome, toOption_map_isSome, Format.fits, Format.unused, legalOperands,
    ← decodeReg_isOk, r1Field, List.all_cons, List.all_nil, Bool.and_true]

theorem decodeFRS_isOk (mk : Reg → Source → Instr) : (decodeFRS mk w).toOption.isSome = Format.fits .frs w := by
  simp only [decodeFRS, toOption_ite_error_isSome, Format.fits, Format.unused, legalOperands, ← decodeReg_isOk,
    ← decodeSlot_isOk, r1Field, saField, List.all_cons, List.all_nil, Bool.and_true]
  cases decodeReg (w.extractLsb' 37 3) <;> cases decodeSlot (w.extractLsb' 20 10) <;> simp

theorem decodeFRM_isOk (mk : Reg → MemSrc → Instr) : (decodeFRM mk w).toOption.isSome = Format.fits .frm w := by
  simp only [decodeFRM, toOption_ite_error_isSome, Format.fits, Format.unused, legalOperands, ← decodeReg_isOk,
    ← decodeMemSlot_isOk, r1Field, saField, List.all_cons, List.all_nil, Bool.and_true]
  cases decodeReg (w.extractLsb' 37 3) <;> cases decodeMemSlot (w.extractLsb' 20 10) <;> simp

theorem decodeFRRR_isOk (mk : Reg → Reg → Reg → Instr) : (decodeFRRR mk w).toOption.isSome = Format.fits .frrr w := by
  simp only [decodeFRRR, toOption_ite_error_isSome, Format.fits, Format.unused, legalOperands, ← decodeReg_isOk,
    r1Field, r2Field, r3Field, List.all_cons, List.all_nil, Bool.and_true]
  cases decodeReg (w.extractLsb' 37 3) <;> cases decodeReg (w.extractLsb' 34 3) <;>
    cases decodeReg (w.extractLsb' 31 3) <;> simp

theorem decodeFJ_isOk (mk : Index → Instr) : (decodeFJ mk w).toOption.isSome = Format.fits .fj w := by
  simp [decodeFJ, toOption_ite_error_isSome, Format.fits, Format.unused, legalOperands]

theorem decodeFJR_isOk (mk : Index → Reg → Instr) : (decodeFJR mk w).toOption.isSome = Format.fits .fjr w := by
  simp [decodeFJR, toOption_ite_error_isSome, Format.fits, Format.unused, legalOperands, ← decodeReg_isOk, r1Field]

theorem decodeFSSS_isOk (mk : Source → Source → Source → Instr) :
    (decodeFSSS mk w).toOption.isSome = Format.fits .fsss w := by
  simp only [decodeFSSS, toOption_ite_error_isSome, Format.fits, Format.unused, legalOperands, ← decodeSlot_isOk,
    saField, sbField, scField, List.all_cons, List.all_nil, Bool.and_true]
  cases decodeSlot (w.extractLsb' 20 10) <;> cases decodeSlot (w.extractLsb' 10 10) <;>
    cases decodeSlot (w.extractLsb' 0 10) <;> simp

theorem decodeFD_isOk (mk : Millis → Instr) : (decodeFD mk w).toOption.isSome = Format.fits .fd w := by
  simp [decodeFD, toOption_ite_error_isSome, Format.fits, Format.unused, legalOperands]

end

/-- A word with a row's opcode decodes exactly when it fits the row's format. -/
theorem decode_isSome_of_row {row : OpcodeRow} (hrow : row ∈ opcodeRows) {w : Word} (hop : (opField w).toNat = row.op) :
    (decode w).isSome = row.format.fits w := by
  unfold decode decodeWord
  simp only [opcodeRows, opcodeRowsLow, opcodeRowsMid, opcodeRowsHigh, List.cons_append, List.nil_append, List.mem_cons,
    List.not_mem_nil, or_false] at hrow
  rcases hrow with rfl | rfl | rfl | rfl | rfl | rfl | rfl | rfl | rfl | rfl | rfl | rfl | rfl | rfl | rfl | rfl | rfl |
      rfl | rfl | rfl | rfl | rfl | rfl | rfl <;>
    simp only [hop, decodeFN_isOk, decodeFR_isOk, decodeFRN_isOk, decodeFRS_isOk, decodeFRM_isOk, decodeFRRR_isOk,
      decodeFJ_isOk, decodeFJR_isOk, decodeFSSS_isOk, decodeFD_isOk]

/-- A word that decodes has the opcode of some row. -/
theorem exists_row_of_decode {w : Word} (h : (decode w).isSome = true) :
    ∃ row ∈ opcodeRows, (opField w).toNat = row.op := by
  have hrows : ∀ n : Nat, 1 ≤ n → n ≤ 24 → ∃ row ∈ opcodeRows, n = row.op := by decide
  unfold decode decodeWord at h
  split at h
  case h_25 => simp at h
  all_goals exact hrows _ (by omega) (by omega)

/-- The decoder accepts exactly the legal words (R87, R91). -/
theorem decode_isSome_eq_legalWord (w : Word) : (decode w).isSome = legalWord w := by
  by_cases hex : ∃ row ∈ opcodeRows, (opField w).toNat = row.op
  · obtain ⟨row, hrow, hop⟩ := hex
    rw [decode_isSome_of_row hrow hop, legalWord_of_row hrow hop]
  · have hdecode : (decode w).isSome = false := Bool.eq_false_iff.mpr fun h => hex (exists_row_of_decode h)
    have hlegal : legalWord w = false := Bool.eq_false_iff.mpr fun h => hex (exists_row_of_legalWord h)
    rw [hdecode, hlegal]

/-- A word that does not decode is illegal: what the fault ILLEGAL_INSTRUCTION reports (R88). -/
theorem legalWord_eq_false_of_decode_none {w : Word} (h : decode w = none) : legalWord w = false := by
  rw [← decode_isSome_eq_legalWord, h]
  rfl

end Sys2Proof

/-! ## What one instruction writes and keeps

One lemma per field of the state, each read off `exec_ind`, the list of the next states of `exec`. -/

namespace Sys2Proof.Machine

section
variable {i : Instr} {s t : State}

/-- No instruction writes the program store (R28). -/
theorem exec_prog (h : exec i s = .next t) : t.prog = s.prog := by
  apply exec_ind (P := fun _ t => t.prog = s.prog) (h := h) <;> intros <;> rfl

/-- The register file is kept, or the destination of R21 gets one value. -/
theorem exec_regs_cases (h : exec i s = .next t) :
    t.regs = s.regs ∨ ∃ d v, destReg i = some d ∧ t.regs = s.regs.set d v := by
  apply exec_ind (P := fun i t => t.regs = s.regs ∨ ∃ d v, destReg i = some d ∧ t.regs = s.regs.set d v) (h := h)
  case mov | add | sub | mul | div | mod | mulh | inputValid | inkey | rand =>
    intros
    exact .inr ⟨_, _, rfl, rfl⟩
  all_goals
    intros
    exact .inl rfl

/-- A sequential instruction that does not fault moves on to the next index (R24, R94). -/
theorem exec_pc_of_sequential (hseq : setsPc i = false) (h : exec i s = .next t) (hrun : t.run = .running) :
    t.pc = s.pc + 1#16 := by
  revert hseq hrun
  apply exec_ind (P := fun i t => setsPc i = false → t.run = .running → t.pc = s.pc + 1#16) (h := h)
  case divZero | modZero | inputInvalid =>
    intros
    simp_all
  case jmp | jzTaken | jzNot | jnzTaken | jnzNot | loopTaken | loopNot | halt =>
    intros
    simp_all [setsPc]
  all_goals
    intros
    rfl

/-- Instructions outside the list of R26 keep Z. -/
theorem exec_z_of_not_writesZ (hz : writesZ i = false) (h : exec i s = .next t) : t.z = s.z := by
  revert hz
  apply exec_ind (P := fun i t => writesZ i = false → t.z = s.z) (h := h)
  case mov | add | sub | mul | div | mod | mulh | cmp | inputValid | inkey =>
    intros
    simp_all [writesZ]
  all_goals
    intros
    rfl

/-- The output grows by the emitted event (R31). -/
theorem exec_out (h : exec i s = .next t) : t.out = s.out ++ (emittedEvent s i).toList := by
  apply exec_ind (P := fun i t => t.out = s.out ++ (emittedEvent s i).toList) (h := h)
  case print | printch | render | cts | slp =>
    intros
    rfl
  all_goals
    intros
    exact (List.append_nil s.out).symm

/-- Instructions other than DRAW and CLS keep the display buffer (R57). -/
theorem exec_disp (hdraw : ∀ x y c, i ≠ .draw x y c) (hcls : i ≠ .cls) (h : exec i s = .next t) : t.disp = s.disp := by
  revert hdraw hcls
  apply exec_ind (P := fun i t => (∀ x y c, i ≠ .draw x y c) → i ≠ .cls → t.disp = s.disp) (h := h)
  case drawIn =>
    intro x y c _ _ hdraw
    exact absurd rfl (hdraw x y c)
  case cls =>
    intro _ hcls
    exact absurd rfl hcls
  all_goals
    intros
    rfl

/-! ## The old Z is not read by its writers -/

/-- A Z writer that does not fault answers the same next state whatever Z was (R265). -/
theorem exec_setZ_of_writesZ (hz : writesZ i = true) (h : exec i s = .next t) (hrun : t.run = .running) (b : Bool) :
    exec i (s.setZ b) = .next t := by
  have hres : ∀ src, (s.setZ b).resolve src = s.resolve src := resolve_congr rfl rfl
  revert hz hrun
  apply exec_ind (P := fun i t => writesZ i = true → t.run = .running → exec i (s.setZ b) = .next t) (h := h)
  case div | mod =>
    intro d src hne _ _
    simp only [exec, execDiv, execMod, State.divide, hres, hne, if_false]
    rfl
  case divZero | modZero | inputInvalid =>
    intros
    simp_all
  case mov | add | sub | mul | mulh | cmp | inkey =>
    intros
    rfl
  case inputValid =>
    intro r e v he hv _ _
    have hline : (s.setZ b).lineEvent = some e := he
    simp only [exec, execInput, hline, acceptLine_of_byte hv]
    rfl
  all_goals
    intros
    simp_all [writesZ]

/-! ## The output trace is not read -/

/-- The state with another output trace. -/
def State.withOut (s : State) (o : List Event) : State := { s with out := o }

/-- With another output trace an instruction does the same, and appends the same event (R31). -/
theorem exec_withOut (h : exec i s = .next t) (o : List Event) :
    exec i (s.withOut o) = .next (t.withOut (o ++ (emittedEvent s i).toList)) := by
  have hres : ∀ src, (s.withOut o).resolve src = s.resolve src := resolve_congr rfl rfl
  apply exec_ind (P := fun i t => exec i (s.withOut o) = .next (t.withOut (o ++ (emittedEvent s i).toList))) (h := h)
  case print | printch | render | cts | slp =>
    intros
    rfl
  all_goals
    intros
    simp only [emittedEvent, Option.toList_none, List.append_nil]
  case mov | store | add | sub | mul | mulh | cmp | jmp | halt | inkey | rand | cls =>
    rfl
  case div d src hne | mod d src hne | divZero d src hne | modZero d src hne =>
    simp only [exec, execDiv, execMod, State.divide, hres, hne, if_false, if_true]
    rfl
  case jzTaken hz | jzNot hz | jnzTaken hz | jnzNot hz =>
    have hz' : (s.withOut o).z = _ := hz
    simp only [exec, execJz, execJnz, State.branch, hz']
    rfl
  case loopTaken r hr | loopNot r hr =>
    have hreg : (s.withOut o).reg r = s.reg r := rfl
    simp only [exec, execLoop, State.branch, hreg, hr, ne_eq, not_false_eq_true, not_true_eq_false, decide_true,
      decide_false]
    rfl
  case inputValid e v he hv =>
    have hline : (s.withOut o).lineEvent = some e := he
    simp only [exec, execInput, hline, acceptLine_of_byte hv]
    rfl
  case inputInvalid e he hi =>
    have hline : (s.withOut o).lineEvent = some e := he
    simp only [exec, execInput, hline, hi]
    rfl
  case drawIn x y c hx hy =>
    simp only [exec, execDraw, State.drawAt, hres, hx, hy, and_self, if_true]
    rfl
  case drawOut x y c hout =>
    simp only [exec, execDraw, State.drawAt, hres, hout, if_false]
    rfl

end

/-! ## The display primitives (R58) -/

section
variable {s : State} {row col row' col' : Nat} {ch : Byte}

/-- A written cell reads back, when the display is canonical (log 20). -/
theorem cell_dispWrite_same (hwf : Grid.wf s.disp = true) : (s.dispWrite row col ch).cell row col = ch :=
  readCell_writeCell_same hwf

/-- A write leaves the other cells of the grid alone. -/
theorem cell_dispWrite_other (hcol : col < 80) (hcol' : col' < 80) (hne : ¬(row' = row ∧ col' = col)) :
    (s.dispWrite row col ch).cell row' col' = s.cell row' col' :=
  readCell_writeCell_other fun hkey => hne (cellKey_inj hcol' hcol hkey)

/-- A filled display has its character in every cell. -/
theorem cell_dispFill (hrow : row < 25) (hcol : col < 80) : (s.dispFill ch).cell row col = ch :=
  readCell_filledGrid ch (cellKey_lt hrow hcol)

end

/-- DRAW never stores a control character (R201). -/
theorem isControl_normalizeChar (ch : Byte) : isControl (normalizeChar ch) = false := by
  unfold normalizeChar
  cases h : isControl ch
  · exact h
  · rfl

/-! ## The invariant, field by field -/

/-- No cell of the grid holds a control character (R29). -/
def State.Printable (s : State) : Prop := ∀ row col, row < 25 → col < 80 → isControl (s.cell row col) = false

/-- A snapshot of a printable display is well formed (R203). -/
theorem gridWf_dispRead {s : State} (hp : s.Printable) : gridWf s.dispRead = true := by
  simp only [gridWf, State.dispRead, Config.rows, Config.cols, List.length_map, List.length_range, List.all_map,
    decide_true, Bool.true_and, List.all_eq_true, List.mem_range, Function.comp_apply, Bool.not_eq_true']
  exact fun row hrow col hcol => hp row col hrow hcol

section
variable {i : Instr} {s t : State}

/-- Only STORE writes data memory, and its write keeps the canonical form. -/
theorem exec_mem_wf (hwf : Memory.wf s.mem = true) (h : exec i s = .next t) : Memory.wf t.mem = true := by
  apply exec_ind (P := fun _ t => Memory.wf t.mem = true) (h := h)
  case store =>
    intro r m
    exact memWrite_wf s _ _ hwf
  all_goals
    intros
    exact hwf

/-- DRAW and CLS keep the canonical form of the display. -/
theorem exec_disp_wf (hwf : Grid.wf s.disp = true) (h : exec i s = .next t) : Grid.wf t.disp = true := by
  apply exec_ind (P := fun _ t => Grid.wf t.disp = true) (h := h)
  case drawIn =>
    intro x y c hx hy
    exact dispWrite_wf s _ hy hx hwf
  case cls => rfl
  all_goals
    intros
    exact hwf

/-- No instruction puts a control character in a display cell (R29). -/
theorem exec_printable (hwf : Grid.wf s.disp = true) (hp : s.Printable) (h : exec i s = .next t) : t.Printable := by
  apply exec_ind (P := fun _ t => t.Printable) (h := h)
  case drawIn =>
    intro x y c hx hy row col hrow hcol
    change isControl ((s.dispWrite _ _ _).cell row col) = false
    by_cases hcell : row = (s.resolve y).toNat ∧ col = (s.resolve x).toNat
    · obtain ⟨rfl, rfl⟩ := hcell
      rw [cell_dispWrite_same hwf, isControl_normalizeChar]
    · rw [cell_dispWrite_other hx hcol hcell]
      exact hp row col hrow hcol
  case cls =>
    intro row col hrow hcol
    change isControl ((s.dispFill 0x20#8).cell row col) = false
    rw [cell_dispFill hrow hcol]
    rfl
  all_goals
    intros
    exact hp

/-- Every event an instruction emits is well formed: a snapshot shows the printable display (R203). -/
theorem eventWf_emittedEvent (hp : s.Printable) : (emittedEvent s i).toList.all eventWf = true := by
  cases i with
  | render => simp [emittedEvent, eventWf, gridWf_dispRead hp]
  | _ => rfl

theorem exec_out_wf (hp : s.Printable) (hout : s.out.all eventWf = true) (h : exec i s = .next t) :
    t.out.all eventWf = true := by
  rw [exec_out h, List.all_append, hout, eventWf_emittedEvent hp]
  rfl

theorem runJustified_of_running (hrun : s.run = .running) : s.RunJustified := by
  simp [State.RunJustified, hrun]

/-- An instruction that ends the run is its reason: HALT for HALTED, DIV, MOD and INPUT for their faults (R95, R221). -/
theorem exec_runJustified (hrun : s.run = .running) (hat : s.atPc i) (h : exec i s = .next t) : t.RunJustified := by
  revert hat
  apply exec_ind (P := fun i t => s.atPc i → t.RunJustified) (h := h)
  case divZero =>
    intro d src hzero hat
    exact ⟨rfl, d, src, .inl hat, hzero⟩
  case modZero =>
    intro d src hzero hat
    exact ⟨rfl, d, src, .inr hat, hzero⟩
  case inputInvalid =>
    intro r e _ _ hat
    exact ⟨rfl, r, hat⟩
  case halt =>
    intro hat
    exact .inr hat
  all_goals
    intros
    exact runJustified_of_running hrun

/-- One instruction keeps the invariant. -/
theorem exec_inv (hinv : s.Inv) (hrun : s.run = .running) (hat : s.atPc i) (h : exec i s = .next t) : t.Inv where
  mem := exec_mem_wf hinv.mem h
  disp := exec_disp_wf hinv.disp h
  printable := exec_printable hinv.disp hinv.printable h
  length := exec_prog h ▸ hinv.length
  out := exec_out_wf hinv.printable hinv.out h
  run := exec_runJustified hrun hat h

/-- A step with nothing to fetch is past the end of the program (R95). -/
theorem length_le_pc_of_fetch_none (hf : s.fetch = none) : s.prog.length ≤ s.pc.toNat :=
  List.getElem?_eq_none_iff.mp hf

theorem pc_lt_length_of_fetch (hf : s.fetch.isSome = true) : s.pc.toNat < s.prog.length := by
  by_contra hlen
  simp [State.fetch, List.getElem?_eq_none (Nat.le_of_not_lt hlen)] at hf

/-- Ending the run in the state as it stands keeps the invariant, when the new run state has its reason. -/
theorem inv_setRun (hinv : s.Inv) {r : Run} (hr : { s with run := r }.RunJustified) : { s with run := r }.Inv :=
  ⟨hinv.mem, hinv.disp, hinv.printable, hinv.length, hinv.out, hr⟩

/-- A step keeps the invariant. -/
theorem step_inv (hinv : s.Inv) (h : step s = .next t) : t.Inv := by
  obtain ⟨hrun, ⟨hf, rfl⟩ | ⟨w, hf, hd, rfl⟩ | ⟨w, i, hf, hd, hexec⟩⟩ := step_cases h
  · exact inv_setRun hinv (.inl (length_le_pc_of_fetch_none hf))
  · exact inv_setRun hinv ⟨rfl, w, hf, legalWord_eq_false_of_decode_none hd⟩
  · exact exec_inv hinv hrun ⟨w, hf, hd⟩ hexec

/-- A step writes no program word. -/
theorem step_prog (h : step s = .next t) : t.prog = s.prog := by
  obtain ⟨-, ⟨-, rfl⟩ | ⟨-, -, -, rfl⟩ | ⟨-, i, -, -, hexec⟩⟩ := step_cases h
  · rfl
  · rfl
  · exact exec_prog hexec

/-- A running state with an instruction at the pc executes it (R92, R93). -/
theorem step_of_decode {w : Word} (hrun : s.run = .running) (hf : s.fetch = some w) (hd : decode w = some i) :
    step s = exec i s := by
  simp [step, hrun, hf, hd]

theorem step_of_fetch_none (hrun : s.run = .running) (hf : s.fetch = none) : step s = .next s.halt := by
  simp [step, hrun, hf]

theorem step_of_decode_none {w : Word} (hrun : s.run = .running) (hf : s.fetch = some w) (hd : decode w = none) :
    step s = .next (s.raiseFault .illegalInstruction) := by
  simp [step, hrun, hf, hd]

/-- A step appends events that do not depend on the trace, and does the same with any other trace (R31). -/
theorem step_withOut (h : step s = .next t) :
    ∃ es, t.out = s.out ++ es ∧ ∀ o, step (s.withOut o) = .next (t.withOut (o ++ es)) := by
  obtain ⟨hrun, ⟨hf, rfl⟩ | ⟨w, hf, hd, rfl⟩ | ⟨w, i, hf, hd, hexec⟩⟩ := step_cases h
  · refine ⟨[], (List.append_nil _).symm, fun o => ?_⟩
    rw [List.append_nil]
    exact step_of_fetch_none (s := s.withOut o) hrun hf
  · refine ⟨[], (List.append_nil _).symm, fun o => ?_⟩
    rw [List.append_nil]
    exact step_of_decode_none (s := s.withOut o) hrun hf hd
  · refine ⟨(emittedEvent s i).toList, exec_out hexec, fun o => ?_⟩
    rw [step_of_decode (s := s.withOut o) hrun hf hd]
    exact exec_withOut hexec o

/-- The pc of a word that a legal program holds has a successor that does not wrap (D6). -/
theorem toNat_pc_succ (hlen : legalLength s.prog = true) (hf : s.fetch.isSome = true) :
    (s.pc + 1#16).toNat = s.pc.toNat + 1 := by
  have hpc := pc_lt_length_of_fetch hf
  have hmax : s.prog.length ≤ 65535 := of_decide_eq_true hlen
  rw [BitVec.toNat_add, BitVec.toNat_ofNat]
  omega

end

/-- A launch with canonical memory and a legal program meets the invariant (R260). -/
theorem launch_inv {regs : Regs} {mem : Memory} {z : Bool} {prog : List Word} {inputs : Inputs}
    (hmem : Memory.wf mem = true) (hlen : legalLength prog = true) : (State.launch regs mem z prog inputs).Inv where
  mem := hmem
  disp := rfl
  printable _ _ _ _ := rfl
  length := hlen
  out := rfl
  run := trivial

/-! ## The obligations of 10_state.md -/

/-- Settles O24, field by field (`exec_inv`): a step halts past the program, faults on an illegal word, or executes. -/
theorem stepKeepsInvariant : Obligations.StepKeepsInvariant :=
  fun _ _ hinv h => step_inv hinv h

/-- Settles O10: a legal program holds no word at index 65535, so the successor of a fetched index does not wrap. -/
theorem sequentialInstructionsAdvancePc : Obligations.SequentialInstructionsAdvancePc := by
  intro i s t _ hseq h hrun
  have hpc := exec_pc_of_sequential hseq h hrun
  refine ⟨hpc, fun hlen hf => ?_⟩
  rw [hpc, toNat_pc_succ hlen hf]

/-- Settles O11: the register file is kept, or one value goes into the destination. -/
theorem onlyListedRegistersAreWritten : Obligations.OnlyListedRegistersAreWritten := by
  intro i s t h r hr
  obtain hkept | ⟨d, v, hd, hset⟩ := exec_regs_cases h
  · exact reg_congr hkept r
  · have hne : r ≠ d := fun heq => hr (heq ▸ hd)
    rw [State.reg, hset, regs_get_set, if_neg hne, State.reg]

/-- Settles O12: one lemma for the instructions that keep Z, one for its writers. -/
theorem zeroFlagIsOverwrittenNeverAccumulated : Obligations.ZeroFlagIsOverwrittenNeverAccumulated :=
  fun _ _ _ h => ⟨fun hz => exec_z_of_not_writesZ hz h, fun hz hrun b => exec_setZ_of_writesZ hz h hrun b⟩

/-- Settles O13 by the list of the next states (`exec_out`). -/
theorem outputGrowsByTheEmittedEvent : Obligations.OutputGrowsByTheEmittedEvent :=
  fun _ _ _ h => exec_out h

/-- Settles O14: a display cell is read from the display buffer alone. -/
theorem onlyDrawAndClsWriteTheDisplay : Obligations.OnlyDrawAndClsWriteTheDisplay :=
  fun _ _ _ h hdraw hcls row col _ _ => cell_congr (exec_disp hdraw hcls h) row col

/-- Settles O15: neither the control unit nor an instruction writes a program word. -/
theorem programStoreIsImmutable : Obligations.ProgramStoreIsImmutable :=
  fun _ _ h => step_prog h

/-- Settles O19: the trace is not fetched from, decoded, or read by an operand (`exec_withOut`). -/
theorem outputTraceIsNeverRead : Obligations.OutputTraceIsNeverRead :=
  fun _ _ h => step_withOut h

/-- Settles O8: `step` looks at the run state first. -/
theorem finalStatesHaveNoStep : Obligations.FinalStatesHaveNoStep := by
  intro s
  constructor
  · intro hrun
    simp only [step, hrun]
  · intro c k hrun
    simp only [step, hrun]

/-- Settles O20: an empty memory reads as zero, an empty display as spaces. -/
theorem resetState : Obligations.ResetState := by
  have hregs : ∀ r, State.reset.reg r = 0x00#8 := by
    intro r
    cases r <;> rfl
  exact ⟨hregs, rfl, rfl, fun _ => rfl, fun _ _ _ _ => rfl, rfl, rfl, rfl⟩

/-- Settles O22: reset is the launch with no memory written and no program. -/
theorem resetSatisfiesInvariant : Obligations.ResetSatisfiesInvariant :=
  launch_inv reset_mem_wf rfl

end Sys2Proof.Machine

/-! ## Memory and display as the primitives leave them, and the instructions with a memory operand -/

namespace Sys2Proof.Machine

/-! ### Data memory (R54, R55) -/

section
variable {s : State} {a b v : Byte}

/-- A written byte reads back, when memory is canonical (log 20). -/
theorem memRead_memWrite_same (hwf : Memory.wf s.mem = true) : (s.memWrite a v).memRead a = v :=
  readCell_writeCell_same hwf

/-- A write leaves the bytes at other addresses alone. -/
theorem memRead_memWrite_other (hne : b ≠ a) : (s.memWrite a v).memRead b = s.memRead b :=
  readCell_writeCell_other fun haddr => hne (BitVec.eq_of_toNat_eq haddr)

/-- Instructions other than STORE keep data memory (R55). -/
theorem exec_mem {i : Instr} {t : State} (hstore : ∀ r m, i ≠ .store r m) (h : exec i s = .next t) : t.mem = s.mem := by
  revert hstore
  apply exec_ind (P := fun i t => (∀ r m, i ≠ .store r m) → t.mem = s.mem) (h := h)
  case store =>
    intro r m hstore
    exact absurd rfl (hstore r m)
  all_goals
    intros
    rfl

end

/-! ### The display snapshot (R58, R203) -/

theorem length_dispRead (s : State) : s.dispRead.length = 25 := by
  simp [State.dispRead, Config.rows]

/-- Row `row` of the snapshot lists the cells of that row in the order of their columns. -/
theorem getElem?_dispRead (s : State) {row : Nat} (hrow : row < 25) :
    s.dispRead[row]? = some ((List.range 80).map fun col => s.cell row col) := by
  simp [State.dispRead, Config.rows, Config.cols, hrow]

/-! ### Instructions with a source operand: what they keep of the registers and the run state -/

section
variable (s : State) (d : Reg) (src : Source) (v col row ch : Byte)

theorem keepsRegsBut_produce : KeepsRegsBut d s (s.produce d v) := by
  intro r hr
  rw [produce_reg, if_neg hr]

/-- A division writes its destination or faults. -/
theorem keepsRegsBut_divide (divisor : Byte) : KeepsRegsBut d s (s.divide d divisor v) := by
  obtain ⟨-, heq⟩ | ⟨-, heq⟩ := divide_cases s d divisor v
  · exact heq ▸ fun _ _ => rfl
  · exact heq ▸ keepsRegsBut_produce s d v

theorem keepsRun_divide {divisor : Byte} (hne : divisor.toNat ≠ 0) : KeepsRun s (s.divide d divisor v) := by
  obtain ⟨hzero, -⟩ | ⟨-, heq⟩ := divide_cases s d divisor v
  · exact absurd hzero hne
  · exact heq ▸ rfl

/-- The bounds-checked draw writes at most the display. -/
@[simp] theorem drawAt_regs : (s.drawAt col row ch).regs = s.regs := by
  obtain ⟨-, -, heq⟩ | ⟨-, heq⟩ := drawAt_cases s col row ch
  · rw [heq, dispWrite_regs]
  · rw [heq]

@[simp] theorem drawAt_run : (s.drawAt col row ch).run = s.run := by
  obtain ⟨-, -, heq⟩ | ⟨-, heq⟩ := drawAt_cases s col row ch
  · rw [heq, dispWrite_run]
  · rw [heq]

variable {mk : Reg → Source → Instr}

/-- MOV, ADD, SUB and MUL put one value in their destination, whatever the operand. -/
theorem exec_eq_produce (hmk : mk ∈ [Instr.mov, Instr.add, Instr.sub, Instr.mul]) :
    ∃ v, exec (mk d src) s = .next (s.produce d v) := by
  simp only [List.mem_cons, List.not_mem_nil, or_false] at hmk
  obtain rfl | rfl | rfl | rfl := hmk <;> exact ⟨_, rfl⟩

/-- DIV and MOD divide by their operand. -/
theorem exec_eq_divide (hmk : mk ∈ [Instr.div, Instr.mod]) :
    ∃ v, exec (mk d src) s = .next (s.divide d (s.resolve src) v) := by
  simp only [List.mem_cons, List.not_mem_nil, or_false] at hmk
  obtain rfl | rfl := hmk <;> exact ⟨_, rfl⟩

end

/-! ### The obligations of 20_memory.md -/

/-- Settles O26: a write by the laws of cells in canonical form, the other instructions by `exec_mem`. -/
theorem memoryWriteSetsOneCell : Obligations.MemoryWriteSetsOneCell := by
  constructor
  · intro s a v
    exact ⟨fun hwf => ⟨memRead_memWrite_same hwf, memWrite_wf s a v hwf⟩, fun _ hne => memRead_memWrite_other hne,
      fun _ => rfl, rfl, rfl, fun _ _ _ _ => rfl, ⟨rfl, rfl, rfl, rfl⟩⟩
  · intro i s t h hstore
    exact memRead_congr (exec_mem hstore h)

/-- Settles O27: one law per primitive. -/
theorem displayPrimitives : Obligations.DisplayPrimitives := by
  intro s ch
  refine ⟨fun row col _ hcol => ⟨cell_dispWrite_same, fun row' col' _ hcol' hne => ?_⟩,
    fun _ _ hrow hcol => cell_dispFill hrow hcol, length_dispRead s,
    fun row hrow => ⟨_, getElem?_dispRead s hrow, by simp, fun col hcol => by simp [hcol]⟩⟩
  exact cell_dispWrite_other hcol hcol' (by simpa using hne)

/-- Settles O25: each form is an equation of `State.resolve` (R51). -/
theorem resolverYieldsTheFourForms : Obligations.ResolverYieldsTheFourForms :=
  fun _ _ _ _ => ⟨rfl, rfl, rfl, rfl⟩

/-- Settles O60: the meanings answer a next state at every address; only a zero divisor touches the run state. -/
theorem effectiveAddressIsUnscaledAndNeverFaults : Obligations.EffectiveAddressIsUnscaledAndNeverFaults := by
  intro s
  refine ⟨fun _ => rfl, fun _ => rfl, fun d m mk hmk => ?_, fun d m mk hmk => ?_, fun r m => ⟨?_, ?_⟩, fun x y c => ?_⟩
  · obtain ⟨v, hexec⟩ := exec_eq_produce s d (.mem m) hmk
    exact ⟨_, hexec, produce_run s d v, keepsRegsBut_produce s d v⟩
  · obtain ⟨v, hexec⟩ := exec_eq_divide s d (.mem m) hmk
    exact ⟨_, hexec, keepsRegsBut_divide s d v _, keepsRun_divide s d v⟩
  · exact ⟨_, rfl, rfl, fun _ => rfl⟩
  · exact ⟨_, rfl, rfl, fun _ => rfl⟩
  · exact ⟨_, rfl, drawAt_run s _ _ _, reg_congr (drawAt_regs s _ _ _)⟩

end Sys2Proof.Machine

/-! ## Encoding and decoding are inverse (R82 to R87, R91, R120)

Format by format: what the format's decoder answers on the format's word, and what word it has read when it answers. -/

namespace Sys2Proof

open Laws.EncodedOpcode (opField_wordFN opField_wordFR opField_wordFRN opField_wordFRS opField_wordFRM opField_wordFRRR
  opField_wordFJ opField_wordFJR opField_wordFSSS opField_wordFD)

/-! ### Decoding an encoded word -/

theorem zeroBits_iff (w : Word) (lo len : Nat) : zeroBits w lo len = true ↔ w.extractLsb' lo len = 0#len := by
  rw [zeroBits, beq_iff_eq]

/-! A format's decoder reads the operands back, whatever the opcode: it does not look at it. -/

section
variable (op : BitVec 8)

theorem decodeFN_wordFN (i : Instr) : decodeFN i (wordFN op) = .ok i := by
  simp (disch := decide) only [decodeFN, wordFN, zeroBits_iff, extract_low, extract_all, if_true]

theorem decodeFR_wordFR (mk : Reg → Instr) (r : Reg) : decodeFR mk (wordFR op r) = .ok (mk r) := by
  simp (disch := decide) only [decodeFR, wordFR, zeroBits_iff, r1Field, extract_low, extract_high, Nat.reduceSub,
    extract_all, if_true, decodeReg_encodeReg, Except.map]

theorem decodeFRN_wordFRN (mk : Reg → Bool → Instr) (r : Reg) (nl : Bool) :
    decodeFRN mk (wordFRN op r nl) = .ok (mk r nl) := by
  simp (disch := decide) only [decodeFRN, wordFRN, zeroBits_iff, Bool.and_eq_true, r1Field, nField, extract_low,
    extract_high, Nat.reduceSub, extract_all, and_self, if_true, decodeReg_encodeReg, Except.map]
  cases nl <;> rfl

theorem decodeFRS_wordFRS (mk : Reg → Source → Instr) (r : Reg) (src : Source) :
    decodeFRS mk (wordFRS op r src) = .ok (mk r src) := by
  simp (disch := decide) only [decodeFRS, wordFRS, zeroBits_iff, Bool.and_eq_true, r1Field, saField, extract_low,
    extract_high, Nat.reduceSub, extract_all, and_self, if_true, decodeReg_encodeReg, decodeSlot_encodeSlot]

theorem decodeFRM_wordFRM (mk : Reg → MemSrc → Instr) (r : Reg) (m : MemSrc) :
    decodeFRM mk (wordFRM op r m) = .ok (mk r m) := by
  simp (disch := decide) only [decodeFRM, wordFRM, zeroBits_iff, Bool.and_eq_true, r1Field, saField, extract_low,
    extract_high, Nat.reduceSub, extract_all, and_self, if_true, decodeReg_encodeReg, decodeMemSlot_encodeMemSlot]

theorem decodeFRRR_wordFRRR (mk : Reg → Reg → Reg → Instr) (d a b : Reg) :
    decodeFRRR mk (wordFRRR op d a b) = .ok (mk d a b) := by
  simp (disch := decide) only [decodeFRRR, wordFRRR, zeroBits_iff, r1Field, r2Field, r3Field, extract_low, extract_high,
    Nat.reduceSub, extract_all, if_true, decodeReg_encodeReg]

theorem decodeFJ_wordFJ (mk : Index → Instr) (t : Index) : decodeFJ mk (wordFJ op t) = .ok (mk t) := by
  simp (disch := decide) only [decodeFJ, wordFJ, zeroBits_iff, addrField, extract_low, extract_high, Nat.reduceSub,
    extract_all, if_true]

theorem decodeFJR_wordFJR (mk : Index → Reg → Instr) (t : Index) (r : Reg) :
    decodeFJR mk (wordFJR op t r) = .ok (mk t r) := by
  simp (disch := decide) only [decodeFJR, wordFJR, zeroBits_iff, r1Field, addrField, extract_low, extract_high,
    Nat.reduceSub, extract_all, if_true, decodeReg_encodeReg, Except.map]

theorem decodeFSSS_wordFSSS (mk : Source → Source → Source → Instr) (x y c : Source) :
    decodeFSSS mk (wordFSSS op x y c) = .ok (mk x y c) := by
  simp (disch := decide) only [decodeFSSS, wordFSSS, zeroBits_iff, saField, sbField, scField, extract_low, extract_high,
    Nat.reduceSub, extract_all, if_true, decodeSlot_encodeSlot]

theorem decodeFD_wordFD (mk : Millis → Instr) (ms : Millis) : decodeFD mk (wordFD op ms) = .ok (mk ms) := by
  simp (disch := decide) only [decodeFD, wordFD, zeroBits_iff, durField, extract_low, extract_high, Nat.reduceSub,
    extract_all, if_true]

end

/-- The opcode of the word selects its format's decoder, which reads the operands back. -/
theorem decodeWord_encode (i : Instr) : decodeWord (encode i) = .ok i := by
  cases i
  case mov | add | sub | mul | div | mod | cmp =>
    simp [decodeWord, encode, opField_wordFRS, decodeFRS_wordFRS]
  case store => simp [decodeWord, encode, opField_wordFRM, decodeFRM_wordFRM]
  case mulh => simp [decodeWord, encode, opField_wordFRRR, decodeFRRR_wordFRRR]
  case jmp | jz | jnz => simp [decodeWord, encode, opField_wordFJ, decodeFJ_wordFJ]
  case loop => simp [decodeWord, encode, opField_wordFJR, decodeFJR_wordFJR]
  case print | printch => simp [decodeWord, encode, opField_wordFRN, decodeFRN_wordFRN]
  case input | inkey | rand => simp [decodeWord, encode, opField_wordFR, decodeFR_wordFR]
  case draw => simp [decodeWord, encode, opField_wordFSSS, decodeFSSS_wordFSSS]
  case slp => simp [decodeWord, encode, opField_wordFD, decodeFD_wordFD]
  case cls | cts | render | halt => simp [decodeWord, encode, opField_wordFN, decodeFN_wordFN]

@[simp] theorem decode_encode (i : Instr) : decode (encode i) = some i := by
  rw [decode, decodeWord_encode, toOption_ok]

/-- The word of an instruction passes the five checks of R87. -/
theorem legalWord_encode (i : Instr) : legalWord (encode i) = true := by
  rw [← decode_isSome_eq_legalWord, decode_encode, Option.isSome_some]

/-! ### Encoding a decoded word -/

theorem map_eq_ok_iff {ε α β : Type} {f : α → β} {x : Except ε α} {b : β} :
    x.map f = .ok b ↔ ∃ a, x = .ok a ∧ f a = b := by
  cases x <;> simp [Except.map]

/-- A payload is the code of the register it decodes to, below five zeros (R82). -/
theorem payload_of_decodePayloadReg {v : Byte} {r : Reg} (h : decodePayloadReg v = .ok r) : 0#5 ++ encodeReg r = v := by
  have key : ∀ v : Byte, (decodePayloadReg v).toOption.all (fun r => 0#5 ++ encodeReg r == v) = true := by decide
  simpa [h] using key v

/-- A slot that decodes is the slot of what it decodes to (R82). -/
theorem encodeSlot_of_decodeSlot {sl : BitVec 10} {src : Source} (h : decodeSlot sl = .ok src) : encodeSlot src = sl := by
  rw [← slot_eq sl]
  unfold decodeSlot at h
  rcases slotMode_cases (sl.extractLsb' 8 2) with hm | hm | hm | hm <;> rw [hm] at h ⊢
  · obtain ⟨r, hr, rfl⟩ := map_eq_ok_iff.mp h
    rw [← payload_of_decodePayloadReg hr]
    cases r <;> rfl
  · cases h
    rfl
  · cases h
    rfl
  · obtain ⟨r, hr, rfl⟩ := map_eq_ok_iff.mp h
    rw [← payload_of_decodePayloadReg hr]
    cases r <;> rfl

/-- The same for a memory slot (R84). -/
theorem encodeMemSlot_of_decodeMemSlot {sl : BitVec 10} {m : MemSrc} (h : decodeMemSlot sl = .ok m) :
    encodeMemSlot m = sl := by
  have hsl : decodeSlot sl = .ok (.mem m) := by
    unfold decodeMemSlot at h
    split at h <;> cases h
    assumption
  exact encodeSlot_of_decodeSlot hsl

/-! A word that a format's decoder accepts is the format's word of its own opcode and of the operands read: the fields and the
bits found zero make up the word again. -/

section
variable {w : Word} {i : Instr}

theorem wordFN_of_decodeFN {j : Instr} (h : decodeFN j w = .ok i) : j = i ∧ wordFN (opField w) = w := by
  simp only [decodeFN, zeroBits_iff] at h
  split at h
  next hz =>
    refine ⟨by injection h, ?_⟩
    rw [wordFN, opField, ← hz, extract_split w 0 40 8, extract_all]
  next => cases h

theorem wordFR_of_decodeFR {mk : Reg → Instr} (h : decodeFR mk w = .ok i) :
    ∃ r, mk r = i ∧ wordFR (opField w) r = w := by
  simp only [decodeFR, zeroBits_iff] at h
  split at h
  next hz =>
    obtain ⟨r, hr, hi⟩ := map_eq_ok_iff.mp h
    refine ⟨r, hi, ?_⟩
    rw [wordFR, encodeReg_of_decodeReg hr, opField, r1Field, ← hz, extract_split w 37 3 8, extract_split w 0 37 11,
      extract_all]
  next => cases h

theorem wordFRN_of_decodeFRN {mk : Reg → Bool → Instr} (h : decodeFRN mk w = .ok i) :
    ∃ r nl, mk r nl = i ∧ wordFRN (opField w) r nl = w := by
  simp only [decodeFRN, Bool.and_eq_true, zeroBits_iff] at h
  split at h
  next hz =>
    obtain ⟨r, hr, hi⟩ := map_eq_ok_iff.mp h
    have hbit : ∀ n : BitVec 1, (if (n == 0#1) = true then 0#1 else 1#1) = n := by decide
    refine ⟨r, _, hi, ?_⟩
    rw [wordFRN, encodeReg_of_decodeReg hr, hbit, opField, r1Field, nField, ← hz.1, ← hz.2, extract_split w 37 3 8,
      extract_split w 31 6 11, extract_split w 30 1 17, extract_split w 0 30 18, extract_all]
  next => cases h

theorem wordFRS_of_decodeFRS {mk : Reg → Source → Instr} (h : decodeFRS mk w = .ok i) :
    ∃ r src, mk r src = i ∧ wordFRS (opField w) r src = w := by
  simp only [decodeFRS, Bool.and_eq_true, zeroBits_iff] at h
  split at h
  next hz =>
    split at h
    next r src hr hs =>
      refine ⟨r, src, by injection h, ?_⟩
      rw [wordFRS, encodeReg_of_decodeReg hr, encodeSlot_of_decodeSlot hs, opField, r1Field, saField, ← hz.1, ← hz.2,
        extract_split w 37 3 8, extract_split w 30 7 11, extract_split w 20 10 18, extract_split w 0 20 28, extract_all]
    all_goals cases h
  next => cases h

theorem wordFRM_of_decodeFRM {mk : Reg → MemSrc → Instr} (h : decodeFRM mk w = .ok i) :
    ∃ r m, mk r m = i ∧ wordFRM (opField w) r m = w := by
  simp only [decodeFRM, Bool.and_eq_true, zeroBits_iff] at h
  split at h
  next hz =>
    split at h
    next r m hr hm =>
      refine ⟨r, m, by injection h, ?_⟩
      rw [wordFRM, encodeReg_of_decodeReg hr, encodeMemSlot_of_decodeMemSlot hm, opField, r1Field, saField, ← hz.1, ← hz.2,
        extract_split w 37 3 8, extract_split w 30 7 11, extract_split w 20 10 18, extract_split w 0 20 28, extract_all]
    all_goals cases h
  next => cases h

theorem wordFRRR_of_decodeFRRR {mk : Reg → Reg → Reg → Instr} (h : decodeFRRR mk w = .ok i) :
    ∃ d a b, mk d a b = i ∧ wordFRRR (opField w) d a b = w := by
  simp only [decodeFRRR, zeroBits_iff] at h
  split at h
  next hz =>
    split at h
    next d a b hd ha hb =>
      refine ⟨d, a, b, by injection h, ?_⟩
      rw [wordFRRR, encodeReg_of_decodeReg hd, encodeReg_of_decodeReg ha, encodeReg_of_decodeReg hb, opField, r1Field,
        r2Field, r3Field, ← hz, extract_split w 37 3 8, extract_split w 34 3 11, extract_split w 31 3 14,
        extract_split w 0 31 17, extract_all]
    all_goals cases h
  next => cases h

theorem wordFJ_of_decodeFJ {mk : Index → Instr} (h : decodeFJ mk w = .ok i) :
    ∃ t, mk t = i ∧ wordFJ (opField w) t = w := by
  simp only [decodeFJ, zeroBits_iff] at h
  split at h
  next hz =>
    refine ⟨_, by injection h, ?_⟩
    rw [wordFJ, opField, addrField, ← hz, extract_split w 16 24 8, extract_split w 0 16 32, extract_all]
  next => cases h

theorem wordFJR_of_decodeFJR {mk : Index → Reg → Instr} (h : decodeFJR mk w = .ok i) :
    ∃ t r, mk t r = i ∧ wordFJR (opField w) t r = w := by
  simp only [decodeFJR, zeroBits_iff] at h
  split at h
  next hz =>
    obtain ⟨r, hr, hi⟩ := map_eq_ok_iff.mp h
    refine ⟨_, r, hi, ?_⟩
    rw [wordFJR, encodeReg_of_decodeReg hr, opField, r1Field, addrField, ← hz, extract_split w 37 3 8,
      extract_split w 16 21 11, extract_split w 0 16 32, extract_all]
  next => cases h

theorem wordFSSS_of_decodeFSSS {mk : Source → Source → Source → Instr} (h : decodeFSSS mk w = .ok i) :
    ∃ x y c, mk x y c = i ∧ wordFSSS (opField w) x y c = w := by
  simp only [decodeFSSS, zeroBits_iff] at h
  split at h
  next hz =>
    split at h
    next x y c hx hy hc =>
      refine ⟨x, y, c, by injection h, ?_⟩
      rw [wordFSSS, encodeSlot_of_decodeSlot hx, encodeSlot_of_decodeSlot hy, encodeSlot_of_decodeSlot hc, opField, saField,
        sbField, scField, ← hz, extract_split w 30 10 8, extract_split w 20 10 18, extract_split w 10 10 28,
        extract_split w 0 10 38, extract_all]
    all_goals cases h
  next => cases h

theorem wordFD_of_decodeFD {mk : Millis → Instr} (h : decodeFD mk w = .ok i) :
    ∃ ms, mk ms = i ∧ wordFD (opField w) ms = w := by
  simp only [decodeFD, zeroBits_iff] at h
  split at h
  next hz =>
    refine ⟨_, by injection h, ?_⟩
    rw [wordFD, opField, durField, ← hz, extract_split w 32 8 8, extract_split w 0 32 16, extract_all]
  next => cases h

/-- The decoder that the opcode selects has read the word of its answer. -/
theorem encode_of_decodeWord (h : decodeWord w = .ok i) : encode i = w := by
  have hop : ∀ n : Nat, (opField w).toNat = n → opField w = BitVec.ofNat 8 n := by
    rintro _ rfl
    rw [BitVec.ofNat_toNat, BitVec.setWidth_eq]
  unfold decodeWord at h
  split at h
  case h_1 hn | h_3 hn | h_4 hn | h_5 hn | h_6 hn | h_7 hn | h_19 hn =>
    obtain ⟨r, src, rfl, hw⟩ := wordFRS_of_decodeFRS h
    rw [hop _ hn] at hw
    exact hw
  case h_2 hn =>
    obtain ⟨r, m, rfl, hw⟩ := wordFRM_of_decodeFRM h
    rw [hop _ hn] at hw
    exact hw
  case h_8 hn =>
    obtain ⟨d, a, b, rfl, hw⟩ := wordFRRR_of_decodeFRRR h
    rw [hop _ hn] at hw
    exact hw
  case h_9 hn | h_10 hn | h_11 hn =>
    obtain ⟨t, rfl, hw⟩ := wordFJ_of_decodeFJ h
    rw [hop _ hn] at hw
    exact hw
  case h_12 hn =>
    obtain ⟨t, r, rfl, hw⟩ := wordFJR_of_decodeFJR h
    rw [hop _ hn] at hw
    exact hw
  case h_13 hn | h_14 hn =>
    obtain ⟨r, nl, rfl, hw⟩ := wordFRN_of_decodeFRN h
    rw [hop _ hn] at hw
    exact hw
  case h_15 hn | h_16 hn | h_20 hn =>
    obtain ⟨r, rfl, hw⟩ := wordFR_of_decodeFR h
    rw [hop _ hn] at hw
    exact hw
  case h_17 hn =>
    obtain ⟨x, y, c, rfl, hw⟩ := wordFSSS_of_decodeFSSS h
    rw [hop _ hn] at hw
    exact hw
  case h_18 hn =>
    obtain ⟨ms, rfl, hw⟩ := wordFD_of_decodeFD h
    rw [hop _ hn] at hw
    exact hw
  case h_21 hn | h_22 hn | h_23 hn | h_24 hn =>
    obtain ⟨rfl, hw⟩ := wordFN_of_decodeFN h
    rw [hop _ hn] at hw
    exact hw
  case h_25 => cases h

theorem encode_of_decode (h : decode w = some i) : encode i = w := by
  rw [decode] at h
  cases hw : decodeWord w with
  | ok j =>
    rw [hw, toOption_ok, Option.some.injEq] at h
    exact h ▸ encode_of_decodeWord hw
  | error e => simp [hw] at h

end

/-! ### The obligations about decoder and encoder -/

/-- Settles O2, format by format; legality is that the word decodes. -/
theorem decodeInvertsEncode : Obligations.DecodeInvertsEncode :=
  fun i => ⟨decode_encode i, legalWord_encode i⟩

/-- Settles O3, format by format: the fields that are read and the bits that are checked make up the whole word. -/
theorem encodeInvertsDecode : Obligations.EncodeInvertsDecode :=
  fun _ _ h => encode_of_decode h
/-- Settles O4: opcode map and decoder ask the same of the opcode, the unused bits and the operands. -/
theorem decodesExactlyTheLegalWords : Obligations.DecodesExactlyTheLegalWords :=
  decode_isSome_eq_legalWord

end Sys2Proof

/-! ## The control unit (R88, R92 to R95) -/

namespace Sys2Proof.Machine

section
variable {i : Instr} {s t : State}

/-- All that one instruction does to the run state: it keeps it, or it is HALT, or it faults, and not for an illegal word (R95,
R221). -/
theorem exec_run_cases (h : exec i s = .next t) :
    t.run = s.run ∨ (i = .halt ∧ t = s.halt) ∨ ∃ c, c ≠ .illegalInstruction ∧ t.run = .faulted c s.pc := by
  apply exec_ind (h := h)
    (P := fun i t => t.run = s.run ∨ (i = .halt ∧ t = s.halt) ∨ ∃ c, c ≠ .illegalInstruction ∧ t.run = .faulted c s.pc)
  case halt => exact .inr (.inl ⟨rfl, rfl⟩)
  case divZero | modZero | inputInvalid =>
    intros
    exact .inr (.inr ⟨_, Cause.noConfusion, rfl⟩)
  all_goals
    intros
    exact .inl rfl

/-- A step into HALTED begins past the program or at a HALT, and changes only the run state (R95, R175). -/
theorem step_halted (h : step s = .next t) (ht : t.run = .halted) :
    (s.prog.length ≤ s.pc.toNat ∨ s.atPc .halt) ∧ t = s.halt := by
  obtain ⟨hrun, ⟨hf, rfl⟩ | ⟨w, hf, hd, rfl⟩ | ⟨w, i, hf, hd, hexec⟩⟩ := step_cases h
  · exact ⟨.inl (length_le_pc_of_fetch_none hf), rfl⟩
  · cases ht
  · obtain hkept | ⟨rfl, rfl⟩ | ⟨c, -, hfault⟩ := exec_run_cases hexec
    · cases hrun.symm.trans (hkept.symm.trans ht)
    · exact ⟨.inr ⟨w, hf, hd⟩, rfl⟩
    · cases hfault.symm.trans ht

/-- A step takes ILLEGAL_INSTRUCTION only at a word that does not decode (R88). -/
theorem decode_none_of_step_illegal {k : Index} (h : step s = .next t) (ht : t.run = .faulted .illegalInstruction k) :
    ∃ w, s.fetch = some w ∧ decode w = none := by
  obtain ⟨hrun, ⟨-, rfl⟩ | ⟨w, hf, hd, -⟩ | ⟨w, i, -, -, hexec⟩⟩ := step_cases h
  · cases ht
  · exact ⟨w, hf, hd⟩
  · obtain hkept | ⟨rfl, rfl⟩ | ⟨c, hc, hfault⟩ := exec_run_cases hexec
    · cases hrun.symm.trans (hkept.symm.trans ht)
    · cases ht
    · cases hfault.symm.trans ht
      exact absurd rfl hc

end

/-! ## The assembler (R100 to R122) -/

/-! ### Decimal text reads back (R112, R119) -/

theorem toNat_digitChar : ∀ n < 10, (digitChar n).toNat = 48 + n := by decide

theorem isDigitChar_digitChar {n : Nat} (hn : n < 10) : isDigitChar (digitChar n) = true := by
  simp only [isDigitChar, toNat_digitChar n hn, Bool.and_eq_true, decide_eq_true_eq]
  omega

/-- The equation of a digit read, from `eq_def`: to prove it by `rfl`, Lean unfolds the subtraction of 48 one by one. -/
theorem digitsValue_cons (acc : Nat) (c : Char) (rest : List Char) :
    digitsValue acc (c :: rest) = digitsValue (acc * 10 + (c.toNat - 48)) rest := by
  rw [digitsValue.eq_def]

/-- Reading the digit of `n` after a number `acc`. -/
theorem digitsValue_digitChar {n : Nat} (hn : n < 10) (acc : Nat) (tail : List Char) :
    digitsValue acc (digitChar n :: tail) = digitsValue (acc * 10 + n) tail := by
  rw [digitsValue_cons, toNat_digitChar n hn, Nat.add_sub_cancel_left]

/-- The decimal form of a number reads as that number, whatever digits follow. -/
theorem digitsValue_decimalOnto {fuel : Nat} : ∀ {n : Nat} (tail : List Char), n < 10 ^ fuel →
    digitsValue 0 (decimalOnto fuel n tail) = digitsValue n tail := by
  induction fuel with
  | zero =>
    intro n tail hn
    rw [Nat.lt_one_iff.mp hn, decimalOnto]
  | succ fuel ih =>
    intro n tail hn
    rw [decimalOnto]
    split
    next hdigit => rw [digitsValue_digitChar hdigit, Nat.zero_mul, Nat.zero_add]
    next =>
      have hmod : n % 10 < 10 := Nat.mod_lt n (by decide)
      rw [ih _ (by rw [Nat.pow_succ] at hn; omega), digitsValue_digitChar hmod, Nat.div_add_mod']

/-- The decimal form is made of digits. -/
theorem decimalOnto_all_digits {fuel : Nat} : ∀ {n : Nat} {tail : List Char}, tail.all isDigitChar = true →
    (decimalOnto fuel n tail).all isDigitChar = true := by
  induction fuel with
  | zero => exact id
  | succ fuel ih =>
    intro n tail htail
    rw [decimalOnto]
    split
    next hdigit => rw [List.all_cons, isDigitChar_digitChar hdigit, htail, Bool.and_self]
    next =>
      have hmod : n % 10 < 10 := Nat.mod_lt n (by decide)
      exact ih (by rw [List.all_cons, isDigitChar_digitChar hmod, htail, Bool.and_self])

theorem digitsValue_decimalText {n : Nat} (hn : n < 10 ^ 10) : digitsValue 0 (decimalText n) = n :=
  digitsValue_decimalOnto [] hn

theorem decimalText_all_digits (n : Nat) : (decimalText n).all isDigitChar = true :=
  decimalOnto_all_digits rfl

/-- An empty text reads as 0, and the text of 0 is not empty. -/
theorem decimalText_ne_nil {n : Nat} (hn : n < 10 ^ 10) : decimalText n ≠ [] := by
  intro hnil
  have hval := digitsValue_decimalText hn
  rw [hnil] at hval
  obtain rfl : 0 = n := hval
  cases hnil

/-- A number parses back from its decimal text, within the bound. -/
theorem parseDecimal_decimalText {max n : Nat} (hn : n < 10 ^ 10) (hmax : n ≤ max) :
    parseDecimal max (decimalText n) = some n := by
  rw [parseDecimal, digitsValue_decimalText hn, if_pos]
  exact ⟨List.isEmpty_eq_false_iff.mpr (decimalText_ne_nil hn), decimalText_all_digits n, hmax⟩

/-- The numeric form of a target comes first (R112). -/
theorem parseTarget_decimalText (labels : Labels) {n : Nat} (hn : n ≤ 65535) :
    parseTarget labels (decimalText n) = .ok (BitVec.ofNat 16 n) := by
  have hlt : n < 10 ^ 10 := by omega
  rw [parseTarget, if_pos ⟨List.isEmpty_eq_false_iff.mpr (decimalText_ne_nil hlt), decimalText_all_digits n⟩,
    parseDecimal_decimalText hlt hn]

/-- A name that is not all digits is looked up (R112). -/
theorem parseTarget_label {labels : Labels} {name : Token} {n : Nat} (hname : name.all isDigitChar = false)
    (hlabel : lookupLabel labels name = some n) (hn : n ≤ 65535) : parseTarget labels name = .ok (BitVec.ofNat 16 n) := by
  simp [parseTarget, hname, hlabel, labelTarget, hn]

/-! ### Labels and statements (R103, R104, R118) -/

/-- Declaring labels adds only labels bound to the index of the next instruction. -/
theorem declareLabels_mem {index : Nat} {tokens : List Token} : ∀ {labels labels' : Labels},
    declareLabels index tokens labels = .ok labels' → ∀ p ∈ labels', p ∈ labels ∨ p.2 = index := by
  induction tokens with
  | nil =>
    intro labels labels' h p hp
    cases h
    exact .inl hp
  | cons t rest ih =>
    intro labels labels' h p hp
    rw [declareLabels] at h
    split at h
    next => cases h
    next =>
      split at h
      next => cases h
      next =>
        obtain hmem | hindex := ih h p hp
        · obtain hold | hnew := List.mem_append.mp hmem
          · exact .inl hold
          · exact .inr (List.mem_singleton.mp hnew ▸ rfl)
        · exact .inr hindex

/-- Every label is bound to an index of at most `n`. -/
def LabelsWithin (labels : Labels) (n : Nat) : Prop := ∀ p ∈ labels, p.2 ≤ n

theorem declareLabels_within {index : Nat} {tokens : List Token} {labels labels' : Labels} (hl : LabelsWithin labels index)
    (h : declareLabels index tokens labels = .ok labels') : LabelsWithin labels' index := by
  intro p hp
  obtain hold | hnew := declareLabels_mem h p hp
  · exact hl p hold
  · exact Nat.le_of_eq hnew

/-- Pass 1 binds no label above the number of statements queued (R104). -/
theorem collect_within {segments : List Segment} : ∀ {labels labels' : Labels} {queue queue' : List Statement},
    LabelsWithin labels queue.length → collect segments labels queue = .ok (labels', queue') →
      LabelsWithin labels' queue'.length := by
  induction segments with
  | nil =>
    intro labels labels' queue queue' hl h
    cases h
    exact hl
  | cons seg rest ih =>
    intro labels labels' queue queue' hl h
    rw [collect] at h
    split at h
    next => cases h
    next labels₁ hdecl =>
      have hl₁ := declareLabels_within hl hdecl
      split at h
      next => exact ih hl₁ h
      next =>
        refine ih (fun p hp => ?_) h
        rw [List.length_append]
        exact Nat.le_add_right_of_le (hl₁ p hp)

/-- Pass 2 builds one instruction per statement (R118). -/
theorem buildAll_length {labels : Labels} {queue : List Statement} : ∀ {instrs : List Instr},
    buildAll labels queue = .ok instrs → instrs.length = queue.length := by
  induction queue with
  | nil =>
    intro instrs h
    cases h
    rfl
  | cons st rest ih =>
    intro instrs h
    rw [buildAll] at h
    split at h
    next => cases h
    next i _ =>
      obtain ⟨is, his, rfl⟩ := map_eq_ok_iff.mp h
      rw [List.length_cons, List.length_cons, ih his]

/-! ### The image (R120, R122) -/

/-- Every word of an assembled image is the word of an instruction. -/
theorem assembleImage_mem {source : List Char} {image : List Word} (h : assembleImage source = .ok image) {w : Word}
    (hw : w ∈ image) : ∃ i, encode i = w := by
  obtain ⟨instrs, -, rfl⟩ := map_eq_ok_iff.mp h
  obtain ⟨i, -, hi⟩ := List.mem_map.mp hw
  exact ⟨i, hi⟩

/-! ## The obligations of 30_encoding.md about the control unit and the assembler -/

/-- Settles O6: an illegal word does not decode, and the control unit then raises the fault at the pc. -/
theorem illegalWordFaults : Obligations.IllegalWordFaults := by
  intro s w hrun hf hw
  have hd : decode w = none := by simpa [← decode_isSome_eq_legalWord] using hw
  exact step_of_decode_none hrun hf hd

/-- Settles O18 from what one instruction does to the run state (`exec_run_cases`). -/
theorem onlyHaltStopsTheRunEarly : Obligations.OnlyHaltStopsTheRunEarly :=
  fun _ _ h ht => step_halted h ht

/-- Settles O57: the decimal text reads back as the index, and the name is looked up. -/
theorem labelAndNumericTargetsAgree : Obligations.LabelAndNumericTargetsAgree :=
  fun labels _ _ hlabel hn hname => ⟨parseTarget_label hname hlabel hn, parseTarget_decimalText labels hn⟩

/-- Settles O58: pass 1 keeps the labels within the queue, pass 2 keeps the queue's length. -/
theorem oneInstructionPerStatement : Obligations.OneInstructionPerStatement := by
  intro source labels queue instrs hcollect h
  rw [assemble, hcollect] at h
  have hlen := buildAll_length h
  refine ⟨hlen, ?_⟩
  rw [hlen]
  exact collect_within (labels := []) (queue := []) (fun _ hp => absurd hp List.not_mem_nil) hcollect

/-- Settles O59: the image holds words of instructions alone, and those decode. -/
theorem assembledProgramsNeverRaiseIllegalInstruction : Obligations.AssembledProgramsNeverRaiseIllegalInstruction := by
  intro source image h
  constructor
  · intro w hw
    obtain ⟨i, rfl⟩ := assembleImage_mem h hw
    exact legalWord_encode i
  · rintro s t rfl hstep k ht
    obtain ⟨w, hf, hd⟩ := decode_none_of_step_illegal hstep ht
    obtain ⟨i, rfl⟩ := assembleImage_mem h (List.mem_of_getElem? hf)
    rw [decode_encode] at hd
    cases hd

/-- Settles O1 by running encoder and decoder on the 17 words. -/
theorem workedEncodingsDecode : Obligations.WorkedEncodingsDecode := by
  unfold Obligations.WorkedEncodingsDecode
  decide

/-- Settles O5: nothing stands between `step` and the meaning of the instruction. -/
theorem stepRunsDecodedInstruction : Obligations.StepRunsDecodedInstruction :=
  fun _ _ _ hrun hf hd => step_of_decode hrun hf hd

/-- Settles O7: a step into HALTED by `step_halted`, no step from a final state by `step_cases`. -/
theorem runEndsByHaltEndOfProgramOrFault : Obligations.RunEndsByHaltEndOfProgramOrFault := by
  refine ⟨fun s => ⟨s.halt, rfl, rfl⟩, fun s hrun hlen => ?_, fun s t h ht => (step_halted h ht).1,
    fun s c => ⟨s.pc, rfl⟩, fun s hfinal t h => ?_⟩
  · exact step_of_fetch_none hrun (List.getElem?_eq_none hlen)
  · obtain ⟨hrun, -⟩ := step_cases h
    obtain hhalted | ⟨c, k, hfaulted⟩ := hfinal
    · cases hrun.symm.trans hhalted
    · cases hrun.symm.trans hfaulted

/-- Settles O56 by running the assembler on the 17 lines. -/
theorem workedSourcesAssemble : Obligations.WorkedSourcesAssemble := by
  unfold Obligations.WorkedSourcesAssemble
  decide

end Sys2Proof.Machine

/-! ## The ALU (40_alu.md R140 to R149) -/

namespace Sys2Proof.Machine

/-! ### The results as integers: only ADD, SUB and MUL lose anything to the narrowing -/

section
variable (a b : Byte)

@[simp] theorem toNat_trunc8 (v : Nat) : (trunc8 v).toNat = v % 256 := BitVec.toNat_ofNat v 8

/-- A number of one byte is not narrowed. -/
theorem toNat_trunc8_of_lt {v : Nat} (hv : v < 256) : (trunc8 v).toNat = v := by
  rw [toNat_trunc8, Nat.mod_eq_of_lt hv]

theorem toNat_aluAdd : (aluAdd a b).toNat = (a.toNat + b.toNat) % 256 := toNat_trunc8 _

/-- The difference is reduced as an integer, so it is never negative (R142). -/
theorem toNat_aluSub : ((aluSub a b).toNat : Int) = ((a.toNat : Int) - (b.toNat : Int)) % 256 := by
  rw [aluSub, toNat_trunc8]
  omega

theorem toNat_aluMul : (aluMul a b).toNat = a.toNat * b.toNat % 256 := toNat_trunc8 _

/-- A quotient is at most the dividend. -/
theorem toNat_aluDiv : (aluDiv a b).toNat = a.toNat / b.toNat :=
  toNat_trunc8_of_lt ((Nat.div_le_self _ _).trans_lt a.isLt)

/-- A remainder is at most the dividend. -/
theorem toNat_aluMod : (aluMod a b).toNat = a.toNat % b.toNat :=
  toNat_trunc8_of_lt ((Nat.mod_le _ _).trans_lt a.isLt)

/-- The product of two bytes has two bytes, so its high byte is the whole quotient by 256 (R146). -/
theorem toNat_aluMulh : (aluMulh a b).toNat = a.toNat * b.toNat / 256 := by
  have hprod : a.toNat * b.toNat < 256 * 256 := Nat.mul_lt_mul'' a.isLt b.isLt
  exact toNat_trunc8_of_lt (Nat.div_lt_of_lt_mul hprod)

end

/-! ### The next states -/

section
variable (s : State) (d a b : Reg) (src : Source) (v divisor : Byte)

theorem produce_reg_same : (s.produce d v).reg d = v := by
  rw [produce_reg, if_pos rfl]

/-- What every instruction that ends in `State.produce` does beside its result: Z from that result, the pc moved on, and all
else kept. -/
theorem produce_frame :
    (s.produce d v).z = decide (((s.produce d v).reg d).toNat = 0) ∧ (s.produce d v).pc = s.pc + 1#16 ∧
      KeepsRegsBut d s (s.produce d v) ∧ KeepsMem s (s.produce d v) ∧ KeepsDisp s (s.produce d v) ∧
        KeepsSystem s (s.produce d v) := by
  refine ⟨?_, produce_pc s d v, keepsRegsBut_produce s d v, memRead_congr (produce_mem s d v),
    fun row col _ _ => cell_congr (produce_disp s d v) row col,
    ⟨produce_prog s d v, produce_run s d v, produce_out s d v, produce_inputs s d v⟩⟩
  rw [produce_reg_same, produce_z, zeroFlag]

theorem exec_mul : exec (.mul d src) s = .next (s.produce d (aluMul (s.reg d) (s.resolve src))) := rfl

theorem exec_mulh : exec (.mulh d a b) s = .next (s.produce d (aluMulh (s.reg a) (s.reg b))) := rfl

theorem exec_div : exec (.div d src) s = .next (s.divide d (s.resolve src) (aluDiv (s.reg d) (s.resolve src))) := rfl

theorem exec_mod : exec (.mod d src) s = .next (s.divide d (s.resolve src) (aluMod (s.reg d) (s.resolve src))) := rfl

variable {divisor}

theorem divide_of_zero (hzero : divisor.toNat = 0) : s.divide d divisor v = s.raiseFault .divByZero :=
  if_pos hzero

theorem divide_of_ne_zero (hne : divisor.toNat ≠ 0) : s.divide d divisor v = s.produce d v :=
  if_neg hne

variable {s src}

theorem exec_div_of_ne_zero (hne : (s.resolve src).toNat ≠ 0) :
    exec (.div d src) s = .next (s.produce d (aluDiv (s.reg d) (s.resolve src))) := by
  rw [exec_div, divide_of_ne_zero s d _ hne]

theorem exec_mod_of_ne_zero (hne : (s.resolve src).toNat ≠ 0) :
    exec (.mod d src) s = .next (s.produce d (aluMod (s.reg d) (s.resolve src))) := by
  rw [exec_mod, divide_of_ne_zero s d _ hne]

end

/-! ### The obligations of 40_alu.md -/

/-- Settles O37: the two results are quotient and remainder of the product by 256. -/
theorem mulhAndMulGiveTheWholeProduct : Obligations.MulhAndMulGiveTheWholeProduct := by
  intro d a b s t u ht hu
  rw [exec_mulh, Host.Outcome.next.injEq] at ht
  rw [exec_mul, Host.Outcome.next.injEq] at hu
  rw [← ht, ← hu, produce_reg_same, produce_reg_same, toNat_aluMulh, toNat_aluMul]
  exact Nat.div_add_mod _ 256

/-- Settles O38: both results are exact, so Euclid's equation on the naturals holds of them. -/
theorem divAndModRebuildTheDividend : Obligations.DivAndModRebuildTheDividend := by
  intro d src s t u hne ht hu
  rw [exec_div_of_ne_zero d hne, Host.Outcome.next.injEq] at ht
  rw [exec_mod_of_ne_zero d hne, Host.Outcome.next.injEq] at hu
  rw [← ht, ← hu, produce_reg_same, produce_reg_same, toNat_aluDiv, toNat_aluMod]
  exact ⟨Nat.div_add_mod' _ _, Nat.mod_lt _ (Nat.pos_of_ne_zero hne)⟩

/-- Settles O30 from the value of `aluAdd`. -/
theorem addWraps : Obligations.AddWraps := by
  refine fun d src s => ⟨rfl, _, rfl, ?_, produce_frame s d _⟩
  rw [produce_reg_same, toNat_aluAdd]

/-- Settles O31 from the value of `aluSub`. -/
theorem subWraps : Obligations.SubWraps := by
  refine fun d src s => ⟨rfl, _, rfl, ?_, produce_frame s d _⟩
  rw [produce_reg_same, toNat_aluSub]

/-- Settles O32 from the value of `aluMul`. -/
theorem mulKeepsTheLowByte : Obligations.MulKeepsTheLowByte := by
  refine fun d src s => ⟨rfl, _, exec_mul s d src, ?_, produce_frame s d _⟩
  rw [produce_reg_same, toNat_aluMul]

/-- Settles O33: a nonzero divisor leaves the result, and `aluDiv` is exact. -/
theorem divGivesTheQuotient : Obligations.DivGivesTheQuotient := by
  refine fun d src s hne => ⟨_, exec_div_of_ne_zero d hne, ?_, produce_frame s d _⟩
  rw [produce_reg_same, toNat_aluDiv]

/-- Settles O34: a nonzero divisor leaves the result, and `aluMod` is exact. -/
theorem modGivesTheRemainder : Obligations.ModGivesTheRemainder := by
  refine fun d src s hne => ⟨_, exec_mod_of_ne_zero d hne, ?_, produce_frame s d _⟩
  rw [produce_reg_same, toNat_aluMod]

/-- Settles O35: the divisor is tested before the division, by the same operation for both instructions. -/
theorem divisionByZeroFaults : Obligations.DivisionByZeroFaults := by
  intro d src s hzero
  rw [exec_div, exec_mod, divide_of_zero s d _ hzero, divide_of_zero s d _ hzero]
  exact ⟨rfl, rfl⟩

/-- Settles O36 from the value of `aluMulh`. -/
theorem mulhGivesTheHighByte : Obligations.MulhGivesTheHighByte := by
  refine fun d a b s => ⟨_, exec_mulh s d a b, ?_, produce_frame s d _⟩
  rw [produce_reg_same, toNat_aluMulh]

/-- Settles O39: only Z and the pc are written, and Z is the decision of equality. -/
theorem cmpSetsZFromEquality : Obligations.CmpSetsZFromEquality :=
  fun _ _ _ => ⟨rfl, _, rfl, decide_eq_true_iff, rfl, fun _ => rfl, fun _ => rfl, fun _ _ _ _ => rfl,
    ⟨rfl, rfl, rfl, rfl⟩⟩

end Sys2Proof.Machine

/-! ## Data movement (41_data_movement.md R160, R161) -/

namespace Sys2Proof.Machine

section
variable (s : State) (d r : Reg) (src : Source) (m : MemSrc) (a : Byte)

theorem exec_mov : exec (.mov d src) s = .next (s.produce d (s.resolve src)) := rfl

theorem exec_store : exec (.store r m) s = .next (s.memWrite (s.effectiveAddress m) (s.reg r)).advance := rfl

/-- Moving on to the next index does not touch data memory. -/
theorem memRead_advance : s.advance.memRead a = s.memRead a :=
  memRead_congr (advance_mem s) a

end

/-! ### The obligations of 41_data_movement.md -/

/-- Settles O28: MOV produces the resolved source itself, so the Z of the result is the Z of the source. -/
theorem movLoadsTheResolvedSource : Obligations.MovLoadsTheResolvedSource := by
  intro d src s
  have hframe := produce_frame s d (s.resolve src)
  rw [produce_reg_same] at hframe
  exact ⟨rfl, _, exec_mov s d src, produce_reg_same s d _, hframe⟩

/-- Settles O29 from the laws of a memory write; moving on writes the pc alone. -/
theorem storeWritesOneCell : Obligations.StoreWritesOneCell := by
  refine fun r m s => ⟨rfl, _, exec_store s r m, fun hwf => ?readBack, fun b hne => ?otherCell, rfl, rfl, fun _ => rfl,
    fun _ _ _ _ => rfl, ⟨rfl, rfl, rfl, rfl⟩⟩
  case readBack => rw [memRead_advance, memRead_memWrite_same hwf]
  case otherCell => rw [memRead_advance, memRead_memWrite_other hne]

end Sys2Proof.Machine

/-! ## Control transfer (42_control_transfer.md R170 to R175) -/

namespace Sys2Proof.Machine

section
variable (s : State) (a : Index) (r : Reg) (taken : Bool)

theorem exec_jmp : exec (.jmp a) s = .next (s.jump a) := rfl

theorem exec_jz : exec (.jz a) s = .next (s.branch s.z a) := rfl

theorem exec_jnz : exec (.jnz a) s = .next (s.branch (!s.z) a) := rfl

theorem exec_loop : exec (.loop a r) s = .next (s.branch (decide ((s.reg r).toNat ≠ 0)) a) := rfl

theorem exec_halt : exec .halt s = .next s.halt := rfl

/-- A jump writes the pc alone (R171). -/
theorem jump_frame :
    KeepsZ s (s.jump a) ∧ KeepsRegs s (s.jump a) ∧ KeepsMem s (s.jump a) ∧ KeepsDisp s (s.jump a) ∧
      KeepsSystem s (s.jump a) :=
  ⟨jump_z s a, reg_congr (jump_regs s a), memRead_congr (jump_mem s a),
    fun row col _ _ => cell_congr (jump_disp s a) row col,
    ⟨jump_prog s a, jump_run s a, jump_out s a, jump_inputs s a⟩⟩

/-- A branch is a jump either way: not taken, it goes to the next index (R94, R170). -/
theorem branch_eq_jump : s.branch taken a = s.jump (if taken = true then a else s.pc + 1#16) := by
  obtain ⟨rfl, hbranch⟩ | ⟨rfl, hbranch⟩ := branch_cases s taken a
  · rw [hbranch, if_pos rfl]
  · rw [hbranch, if_neg Bool.false_ne_true]
    rfl

/-- So a branch too writes the pc alone. -/
theorem branch_frame :
    KeepsZ s (s.branch taken a) ∧ KeepsRegs s (s.branch taken a) ∧ KeepsMem s (s.branch taken a) ∧
      KeepsDisp s (s.branch taken a) ∧ KeepsSystem s (s.branch taken a) := by
  rw [branch_eq_jump]
  exact jump_frame s _

variable {taken}

/-- Where a branch goes, by the condition `p` that its Boolean decides. -/
theorem branch_pc_of_iff {p : Prop} [Decidable p] (hp : taken = true ↔ p) :
    (s.branch taken a).pc = if p then a else s.pc + 1#16 := by
  rw [branch_eq_jump, jump_pc]
  exact if_congr hp rfl rfl

end

/-! ### The obligations of 42_control_transfer.md -/

/-- Settles O40: JMP is the jump itself. -/
theorem jmpSetsThePc : Obligations.JmpSetsThePc :=
  fun a s => ⟨rfl, _, exec_jmp s a, jump_pc s a, jump_frame s a⟩

/-- Settles O41: JZ branches on Z, JNZ on its negation. -/
theorem jzAndJnzTestTheZeroFlag : Obligations.JzAndJnzTestTheZeroFlag := by
  refine fun a s => ⟨rfl, rfl, ⟨_, exec_jz s a, ?jz, branch_frame s a _⟩, ⟨_, exec_jnz s a, ?jnz, branch_frame s a _⟩⟩
  case jz => exact branch_pc_of_iff s a Iff.rfl
  case jnz => exact branch_pc_of_iff s a (Bool.not_eq_true' s.z).to_iff

/-- Settles O42: LOOP branches on its register, which the branch keeps. -/
theorem loopTestsItsRegister : Obligations.LoopTestsItsRegister :=
  fun a r s => ⟨rfl, _, exec_loop s a r, branch_pc_of_iff s a decide_eq_true_iff, branch_frame s a _⟩

/-- Settles O43: HALT writes the run state alone, so the pc stays at the HALT (D18). -/
theorem haltEndsTheRun : Obligations.HaltEndsTheRun :=
  fun s => ⟨_, exec_halt s, halt_run s, halt_pc s, halt_z s, reg_congr (halt_regs s), memRead_congr (halt_mem s),
    fun row col _ _ => cell_congr (halt_disp s) row col, halt_prog s, halt_out s, halt_inputs s⟩

end Sys2Proof.Machine

/-! ## Output and peripherals (43_io_peripheral.md R180 to R185, 60_exceptions.md R232, R233) -/

namespace Sys2Proof.Machine

/-! ### The line adapter (R232) -/

/-- The equation of one character of a line, with the terminators as characters (R232 step 1). -/
theorem stripTerminator_cons (c : Char) (rest : List Char) :
    stripTerminator (c :: rest) =
      if (c = '\n' ∧ rest = []) ∨ (c = '\r' ∧ rest = ['\n']) then [] else c :: stripTerminator rest := by
  have hchar : ∀ d : Char, c.toNat = d.toNat ↔ c = d := fun d => Char.toNat_inj
  exact if_congr (or_congr (and_congr_left' (hchar '\n')) (and_congr_left' (hchar '\r'))) rfl rfl

/-- A line that does not end in LF has no terminator. -/
theorem stripTerminator_of_getLast_ne {t : List Char} (h : t.getLast? ≠ some '\n') : stripTerminator t = t := by
  induction t with
  | nil => rfl
  | cons c rest ih =>
    have hend : ¬((c = '\n' ∧ rest = []) ∨ (c = '\r' ∧ rest = ['\n'])) := by
      rintro (⟨rfl, rfl⟩ | ⟨rfl, rfl⟩) <;> exact h rfl
    have hrest : rest.getLast? ≠ some '\n' := fun hr => h (by rw [List.getLast?_cons, hr]; rfl)
    rw [stripTerminator_cons, if_neg hend, ih hrest]

/-- LF alone is a terminator when no CR stands before it. -/
theorem stripTerminator_append_lf {t : List Char} (h : t.getLast? ≠ some '\r') : stripTerminator (t ++ ['\n']) = t := by
  induction t with
  | nil => rfl
  | cons c rest ih =>
    have hend : ¬((c = '\n' ∧ rest ++ ['\n'] = []) ∨ (c = '\r' ∧ rest ++ ['\n'] = ['\n'])) := by
      rintro (⟨-, hnil⟩ | ⟨rfl, hlf⟩)
      · exact List.append_ne_nil_of_right_ne_nil rest (List.cons_ne_nil _ _) hnil
      · rw [List.append_left_eq_self.mp hlf] at h
        exact h rfl
    have hrest : rest.getLast? ≠ some '\r' := fun hr => h (by rw [List.getLast?_cons, hr]; rfl)
    rw [List.cons_append, stripTerminator_cons, if_neg hend, ih hrest]

/-- CR LF is a terminator after any text. -/
theorem stripTerminator_append_crlf (t : List Char) : stripTerminator (t ++ ['\r', '\n']) = t := by
  induction t with
  | nil => rfl
  | cons c rest ih =>
    have hlong : 2 ≤ (rest ++ ['\r', '\n']).length := by simp
    have hend : ¬((c = '\n' ∧ rest ++ ['\r', '\n'] = []) ∨ (c = '\r' ∧ rest ++ ['\r', '\n'] = ['\n'])) := by
      rintro (⟨-, hshort⟩ | ⟨-, hshort⟩) <;> rw [hshort] at hlong <;> simp at hlong
    rw [List.cons_append, stripTerminator_cons, if_neg hend, ih]

/-- A text of digits ends in no other character. -/
theorem getLast_ne_of_all_digits {t : List Char} (ht : t.all isDigitChar = true) {c : Char}
    (hc : isDigitChar c = false) : t.getLast? ≠ some c := by
  intro hlast
  have hdigit : isDigitChar c = true := List.all_eq_true.mp ht c (List.mem_of_getLast? hlast)
  exact Bool.false_ne_true (hc.symm.trans hdigit)

/-- The adapter reads the digits of a line, whichever terminator the line has. -/
theorem stripTerminator_digits {t terminator : List Char} (ht : t.all isDigitChar = true)
    (hterm : terminator = [] ∨ terminator = ['\n'] ∨ terminator = ['\r', '\n']) :
    stripTerminator (t ++ terminator) = t := by
  obtain rfl | rfl | rfl := hterm
  · rw [List.append_nil]
    exact stripTerminator_of_getLast_ne (getLast_ne_of_all_digits ht rfl)
  · exact stripTerminator_append_lf (getLast_ne_of_all_digits ht rfl)
  · exact stripTerminator_append_crlf t

/-- Leading zeros do not change the number a text spells. -/
theorem digitsValue_leadingZeros (zeros : Nat) (t : List Char) :
    digitsValue 0 (List.replicate zeros '0' ++ t) = digitsValue 0 t := by
  induction zeros with
  | zero => rfl
  | succ zeros ih => exact (digitsValue_cons 0 '0' _).trans ih

theorem leadingZeros_all_digits (zeros : Nat) {t : List Char} (ht : t.all isDigitChar = true) :
    (List.replicate zeros '0' ++ t).all isDigitChar = true := by
  have hzeros : (List.replicate zeros '0').all isDigitChar = true :=
    List.all_eq_true.mpr fun _ hc => List.eq_of_mem_replicate hc ▸ rfl
  rw [List.all_append, hzeros, ht, Bool.and_self]

/-- A text of digits within the adapter's bound is a number (R232 step 2). -/
theorem classifyText_of_digits {t : List Char} (hne : t ≠ []) (ht : t.all isDigitChar = true)
    (hmax : digitsValue 0 t ≤ 255) : classifyText t = .num (BitVec.ofNat 8 (digitsValue 0 t)) := by
  have hparse : parseDecimal 255 t = some (digitsValue 0 t) :=
    if_pos ⟨List.isEmpty_eq_false_iff.mpr hne, ht, hmax⟩
  simp only [classifyText, hparse]

/-! ### The key adapter (R184, R233) -/

/-- The host reports a key that is pending, whatever it picks. -/
theorem chooseKey_mem (k : KeyEvent) (more : List KeyEvent) (pick : Nat) : chooseKey k more pick ∈ k :: more := by
  cases more with
  | nil => exact List.mem_singleton_self k
  | cons k' more =>
    have hlt : pick % ((k' :: more).length + 1) < (k :: k' :: more).length := Nat.mod_lt _ (Nat.succ_pos _)
    rw [chooseKey, List.getD_eq_getElem _ _ hlt]
    exact List.getElem_mem hlt

theorem polledKey_of_nil {s : State} (h : s.pendingKeys = []) : s.polledKey = none := by
  rw [State.polledKey, h, keyAnswer]

theorem polledKey_of_ne_nil {s : State} (h : s.pendingKeys ≠ []) :
    ∃ k ∈ s.pendingKeys, s.polledKey = some (keyByte k) := by
  obtain ⟨k, more, hcons⟩ := List.exists_cons_of_ne_nil h
  rw [State.polledKey, hcons]
  exact ⟨_, chooseKey_mem k more _, rfl⟩

/-! ### The next states -/

section
variable (s : State) (r : Reg) (nl : Bool) (e : Event)

theorem exec_print : exec (.print r nl) s = .next (s.emit (.print (s.reg r) nl)).advance := rfl

theorem exec_printch : exec (.printch r nl) s = .next (s.emit (.printCh (s.reg r) nl)).advance := rfl

theorem exec_inkey : exec (.inkey r) s = .next (s.drainKeys.produce r (s.polledKey.getD 0x00#8)) := rfl

theorem exec_rand : exec (.rand r) s = .next (s.takeRandom.setReg r s.randomByte).advance := rfl

/-- What every instruction that emits an event and moves on does to the state. -/
theorem emit_advance_frame :
    (s.emit e).advance.out = s.out ++ [e] ∧ (s.emit e).advance.pc = s.pc + 1#16 ∧ KeepsZ s (s.emit e).advance ∧
      KeepsRegs s (s.emit e).advance ∧ KeepsMem s (s.emit e).advance ∧ KeepsDisp s (s.emit e).advance ∧
      KeepsProg s (s.emit e).advance ∧ KeepsRun s (s.emit e).advance ∧ KeepsInputs s (s.emit e).advance :=
  ⟨emit_out s e, rfl, emit_z s e, reg_congr (emit_regs s e), memRead_congr (emit_mem s e),
    fun row col _ _ => cell_congr (emit_disp s e) row col, emit_prog s e, emit_run s e, emit_inputs s e⟩

variable {s}

/-- With a line from the host, INPUT does what the line's class asks for (R183). -/
theorem exec_input_of_lineEvent {line : LineEvent} (h : s.lineEvent = some line) :
    exec (.input r) s = .next (s.takeLine.acceptLine r (classifyLine line)) := by
  simp only [exec, execInput, h]

theorem exec_input_of_byte {line : LineEvent} {v : Byte} (h : s.lineEvent = some line)
    (hv : answerByte (classifyLine line) = some v) : exec (.input r) s = .next (s.takeLine.produce r v) := by
  rw [exec_input_of_lineEvent r h, acceptLine_of_byte hv]

theorem exec_input_of_invalid {line : LineEvent} (h : s.lineEvent = some line) (hline : classifyLine line = .invalid) :
    exec (.input r) s = .next (s.takeLine.raiseFault .invalidInput) := by
  rw [exec_input_of_lineEvent r h, hline, State.acceptLine]

/-- A listed random byte is the one the source answers (R234). -/
theorem randomByte_of_listed {v : Byte} {rest : List Byte} (h : s.inputs.rands = v :: rest) : s.randomByte = v := by
  rw [State.randomByte, h]

end

/-! ### The obligations of 43_io_peripheral.md -/

/-- Settles O45: the digits survive the removal of the terminator, and spell the byte whatever zeros lead them. -/
theorem printedNumbersReadBack : Obligations.PrintedNumbersReadBack := by
  intro v zeros terminator hterm
  have hlt : v.toNat < 10 ^ 10 := v.isLt.trans (by decide)
  have hdigits := leadingZeros_all_digits zeros (decimalText_all_digits v.toNat)
  have hne := List.append_ne_nil_of_right_ne_nil (List.replicate zeros '0') (decimalText_ne_nil hlt)
  have hvalue : digitsValue 0 (List.replicate zeros '0' ++ decimalText v.toNat) = v.toNat := by
    rw [digitsValue_leadingZeros, digitsValue_decimalText hlt]
  have hmax : v.toNat ≤ 255 := Nat.le_of_lt_succ v.isLt
  rw [classifyLine, stripTerminator_digits hdigits hterm, classifyText_of_digits hne hdigits (hvalue.trans_le hmax),
    hvalue, BitVec.ofNat_toNat, BitVec.setWidth_eq]

/-- Settles O50: the polled byte is 0 or a pending key's, and INKEY produces it once the queue is drained. -/
theorem inkeyReportsAPendingKey : Obligations.InkeyReportsAPendingKey := by
  refine ⟨fun _ => rfl, rfl, rfl, rfl, rfl, rfl, fun r s => ?_⟩
  obtain ⟨hz, hpc, hregs, hmem, hdisp, hprog, hrun, hout, -⟩ :=
    produce_frame s.drainKeys r (s.polledKey.getD 0x00#8)
  refine ⟨_, exec_inkey s r, fun hnil => ?noKey, fun hne => ?someKey, hz, hpc, drainKeys_keys s, drainKeys_lines s,
    drainKeys_rands s, hregs, hmem, hdisp, hprog, hrun, hout⟩
  case noKey => rw [produce_reg_same, polledKey_of_nil hnil, Option.getD_none]
  case someKey =>
    obtain ⟨k, hk, hpolled⟩ := polledKey_of_ne_nil hne
    exact ⟨k, hk, by rw [produce_reg_same, hpolled, Option.getD_some]⟩

/-- Settles O44: both emit one event and move on. -/
theorem printAndPrintchEmitTheByte : Obligations.PrintAndPrintchEmitTheByte :=
  fun r nl s => ⟨⟨_, exec_print s r nl, emit_advance_frame s _⟩, ⟨_, exec_printch s r nl, emit_advance_frame s _⟩⟩

/-- Settles O47: INPUT produces the answer's byte, once the line is taken. -/
theorem inputStoresTheAnswer : Obligations.InputStoresTheAnswer := by
  intro r s line v hline hv
  obtain ⟨hz, hpc, hregs, hmem, hdisp, hprog, hrun, hout, -⟩ := produce_frame s.takeLine r v
  rw [produce_reg_same] at hz
  exact ⟨_, exec_input_of_byte r hline hv, produce_reg_same s.takeLine r v, hz, hpc, takeLine_lines s,
    takeLine_keys s, takeLine_rands s, hregs, hmem, hdisp, hprog, hrun, hout⟩

/-- Settles O48: taking the line and raising the fault write the host's answers and the run state alone. -/
theorem inputFaultsOnAnInvalidLine : Obligations.InputFaultsOnAnInvalidLine :=
  fun r _ _ hline hinvalid => ⟨_, exec_input_of_invalid r hline hinvalid, rfl, rfl, fun _ => rfl, rfl, fun _ => rfl,
    fun _ _ _ _ => rfl, rfl, rfl⟩

/-- Settles O51: RAND writes its register and the pc, and takes the source's byte. -/
theorem randStoresAByteAndKeepsZ : Obligations.RandStoresAByteAndKeepsZ := by
  intro r s
  have hreg : ∀ x, (s.takeRandom.setReg r s.randomByte).advance.reg x = if x = r then s.randomByte else s.reg x :=
    fun x => reg_setReg s.takeRandom r x s.randomByte
  refine ⟨_, exec_rand s r, ?stored, fun v rest hlisted => ⟨?listed, ?used⟩, takeRandom_z s, rfl,
    takeRandom_lines s, takeRandom_keys s, fun x hx => ?others, fun _ => rfl, fun _ _ _ _ => rfl, takeRandom_prog s,
    takeRandom_run s, takeRandom_out s⟩
  case stored => rw [hreg, if_pos rfl]
  case listed => rw [hreg, if_pos rfl, randomByte_of_listed hlisted]
  case used => exact congrArg List.tail hlisted
  case others => rw [hreg, if_neg hx]

end Sys2Proof.Machine

/-! ## Display and sleep (44_display_sleep.md R200 to R205) -/

namespace Sys2Proof.Machine

/-! ### The next states -/

section
variable (s : State) (x y c : Source) (ms : Millis) (g : Grid) (row col : Nat)

theorem exec_cls : exec .cls s = .next (s.dispFill 0x20#8).advance := rfl

theorem exec_render : exec .render s = .next (s.emit (.render s.dispRead)).advance := rfl

theorem exec_cts : exec .cts s = .next (s.emit .clearTerminal).advance := rfl

theorem exec_slp : exec (.slp ms) s = .next (s.emit (.sleep ms)).advance := rfl

theorem exec_draw : exec (.draw x y c) s = .next (s.drawAt (s.resolve x) (s.resolve y) (s.resolve c)).advance := rfl

/-- Moving on to the next index does not touch the display. -/
theorem cell_advance : s.advance.cell row col = s.cell row col :=
  cell_congr (advance_disp s) row col

/-- The state with another display buffer: what DRAW and CLS write. -/
def State.withDisp (s : State) (g : Grid) : State := { s with disp := g }

theorem dispFill_eq_withDisp (ch : Byte) : s.dispFill ch = s.withDisp (filledGrid ch) := rfl

theorem dispWrite_eq_withDisp (ch : Byte) :
    s.dispWrite row col ch = s.withDisp (writeCell Config.dispBlank s.disp (cellKey row col) ch) := rfl

/-- The bounds-checked draw writes the display alone. -/
theorem drawAt_eq_withDisp (px py ch : Byte) : ∃ g, s.drawAt px py ch = s.withDisp g := by
  obtain ⟨-, -, hdraw⟩ | ⟨-, hdraw⟩ := drawAt_cases s px py ch
  · exact ⟨_, hdraw.trans (dispWrite_eq_withDisp s _ _ _)⟩
  · exact ⟨s.disp, hdraw⟩

/-- What every instruction that writes the display alone and moves on does to the rest of the state. -/
theorem withDisp_advance_frame :
    (s.withDisp g).advance.pc = s.pc + 1#16 ∧ KeepsZ s (s.withDisp g).advance ∧ KeepsRegs s (s.withDisp g).advance ∧
      KeepsMem s (s.withDisp g).advance ∧ KeepsSystem s (s.withDisp g).advance :=
  ⟨rfl, rfl, reg_congr rfl, memRead_congr rfl, ⟨rfl, rfl, rfl, rfl⟩⟩

end

/-! ### DRAW (R200, R201) -/

/-- The character DRAW stores, with the control set written out (D15). -/
theorem normalizeChar_eq_ite (ch : Byte) :
    normalizeChar ch = if ch.toNat ≤ 0x1F ∨ (0x7F ≤ ch.toNat ∧ ch.toNat ≤ 0x9F) then 0x20#8 else ch := by
  simp only [normalizeChar, isControl, Bool.or_eq_true, Bool.and_eq_true, decide_eq_true_eq]

section
variable {s : State} {px py ch : Byte}

/-- Within the grid a draw is the write of one cell. -/
theorem drawAt_of_inside (hx : px.toNat < 80) (hy : py.toNat < 25) :
    s.drawAt px py ch = s.dispWrite py.toNat px.toNat (normalizeChar ch) :=
  if_pos ⟨hx, hy⟩

/-- Outside the grid a draw does nothing. -/
theorem drawAt_of_outside (hout : 80 ≤ px.toNat ∨ 25 ≤ py.toNat) : s.drawAt px py ch = s :=
  if_neg (by omega)

/-- The drawn cell holds the normalised character, when the display is canonical (log 20). -/
theorem cell_drawAt_same (hx : px.toNat < 80) (hy : py.toNat < 25) (hwf : Grid.wf s.disp = true) :
    (s.drawAt px py ch).cell py.toNat px.toNat = normalizeChar ch := by
  rw [drawAt_of_inside hx hy, cell_dispWrite_same hwf]

/-- A draw leaves every other cell alone. -/
theorem cell_drawAt_other (hx : px.toNat < 80) (hy : py.toNat < 25) {row col : Nat} (hcol : col < 80)
    (hne : (row, col) ≠ (py.toNat, px.toNat)) : (s.drawAt px py ch).cell row col = s.cell row col := by
  rw [drawAt_of_inside hx hy]
  exact cell_dispWrite_other hx hcol fun ⟨hroweq, hcoleq⟩ => hne (Prod.ext hroweq hcoleq)

end

/-! ### The obligations of 44_display_sleep.md -/

/-- Settles O52: the cells by the laws of `State.drawAt`, the rest because a draw writes the display alone. -/
theorem drawWritesOneCellOrNone : Obligations.DrawWritesOneCellOrNone := by
  intro x y c s
  refine ⟨_, exec_draw s x y c, fun ⟨hx, hy⟩ => ⟨fun hwf => ?drawn, fun row col _ hcol hne => ?otherCell⟩,
    fun hout row col _ _ => ?outside, ?frame⟩
  case drawn => rw [cell_advance, cell_drawAt_same hx hy hwf, normalizeChar_eq_ite]
  case otherCell => rw [cell_advance, cell_drawAt_other hx hy hcol hne]
  case outside => rw [cell_advance, drawAt_of_outside hout]
  case frame =>
    obtain ⟨g, hdraw⟩ := drawAt_eq_withDisp s (s.resolve x) (s.resolve y) (s.resolve c)
    rw [hdraw]
    exact withDisp_advance_frame s g

/-- Settles O53: a display filled with what an unlisted cell reads as lists no cell, like that of reset (R29). -/
theorem clsFillsTheDisplayWithSpaces : Obligations.ClsFillsTheDisplayWithSpaces := by
  refine fun s => ⟨rfl, _, exec_cls s, fun row col hrow hcol => ?cells, rfl, ?frame⟩
  case cells => rw [cell_advance, cell_dispFill hrow hcol]
  case frame =>
    rw [dispFill_eq_withDisp]
    exact withDisp_advance_frame s _

/-- Settles O54: the event holds `State.dispRead`, whose rows list their cells by column. -/
theorem renderEmitsTheSnapshot : Obligations.RenderEmitsTheSnapshot := by
  intro s
  obtain ⟨hout, hframe⟩ := emit_advance_frame s (.render s.dispRead)
  exact ⟨_, s.dispRead, exec_render s, hout, length_dispRead s,
    fun row hrow => ⟨_, getElem?_dispRead s hrow, by simp, fun col hcol => by simp [hcol]⟩, hframe⟩

/-- Settles O55: both emit one event and move on. -/
theorem ctsAndSlpEmitTheirEvent : Obligations.CtsAndSlpEmitTheirEvent :=
  fun ms s => ⟨⟨_, exec_cts s, emit_advance_frame s _⟩, ⟨_, exec_slp s ms, emit_advance_frame s _⟩⟩

end Sys2Proof.Machine

/-! ## Faults, waiting and the line adapter (60_exceptions.md R220 to R236) -/

namespace Sys2Proof.Machine

/-! ### When an instruction has no next state (R236) -/

section
variable {i : Instr} {s t : State} {c : Cause} {k : Index}

/-- INPUT waits exactly when the host supplies no line. -/
theorem exec_input_waits_iff {r : Reg} : exec (.input r) s = .fault .waitsForLine ↔ s.lineEvent = none := by
  cases hline : s.lineEvent with
  | none => simp only [exec, execInput, hline]
  | some line => simp only [exec_input_of_lineEvent r hline, reduceCtorEq]

/-- Every instruction has a next state, but for an INPUT to which the host supplies no line. -/
theorem exec_next_or_waits (i : Instr) (s : State) :
    (∃ t, exec i s = .next t) ∨ ∃ r, i = .input r ∧ s.lineEvent = none := by
  cases i with
  | input r =>
    cases hline : s.lineEvent with
    | none => exact .inr ⟨r, rfl, rfl⟩
    | some line => exact .inl ⟨_, exec_input_of_lineEvent r hline⟩
  | _ => exact .inl ⟨_, rfl⟩

/-- A running core has a next state, but for an INPUT at the pc to which the host supplies no line (R262). -/
theorem step_next_or_waits (hrun : s.run = .running) :
    (∃ t, step s = .next t) ∨ (step s = .fault .waitsForLine ∧ (∃ r, s.atPc (.input r)) ∧ s.lineEvent = none) := by
  cases hf : s.fetch with
  | none => exact .inl ⟨_, step_of_fetch_none hrun hf⟩
  | some w =>
    cases hd : decode w with
    | none => exact .inl ⟨_, step_of_decode_none hrun hf hd⟩
    | some i =>
      rw [step_of_decode hrun hf hd]
      obtain hnext | ⟨r, rfl, hline⟩ := exec_next_or_waits i s
      · exact .inl hnext
      · exact .inr ⟨exec_input_waits_iff.mpr hline, ⟨r, w, hf, hd⟩, hline⟩

/-! ### When an instruction faults, and the state it then leaves (R221, R222) -/

/-- The two faults of an executing instruction, each with its condition and its whole next state. -/
theorem exec_faulted_cases (hrun : s.run = .running) (h : exec i s = .next t) (ht : t.run = .faulted c k) :
    (c = .divByZero ∧ t = s.raiseFault c ∧
        ∃ d src, (i = .div d src ∨ i = .mod d src) ∧ (s.resolve src).toNat = 0) ∨
      (c = .invalidInput ∧ t = s.takeLine.raiseFault c ∧
        ∃ r e, i = .input r ∧ s.lineEvent = some e ∧ classifyLine e = .invalid) := by
  revert ht
  apply exec_ind (h := h)
  case divZero =>
    intro d src hzero ht
    cases ht
    exact .inl ⟨rfl, rfl, d, src, .inl rfl, hzero⟩
  case modZero =>
    intro d src hzero ht
    cases ht
    exact .inl ⟨rfl, rfl, d, src, .inr rfl, hzero⟩
  case inputInvalid =>
    intro r line hline hinvalid ht
    cases ht
    exact .inr ⟨rfl, rfl, r, line, rfl, hline, hinvalid⟩
  case halt =>
    intro ht
    cases ht
  all_goals
    intros
    rename_i ht
    cases hrun.symm.trans ht

/-- Raising a fault writes the run state alone (R220). -/
theorem raiseFault_frame (s : State) (c : Cause) :
    (s.raiseFault c).pc = s.pc ∧ KeepsRegs s (s.raiseFault c) ∧ KeepsZ s (s.raiseFault c) ∧
      KeepsMem s (s.raiseFault c) ∧ KeepsDisp s (s.raiseFault c) ∧ KeepsProg s (s.raiseFault c) ∧
      KeepsOut s (s.raiseFault c) :=
  ⟨rfl, reg_congr (raiseFault_regs s c), raiseFault_z s c, memRead_congr (raiseFault_mem s c),
    fun row col _ _ => cell_congr (raiseFault_disp s c) row col, raiseFault_prog s c, raiseFault_out s c⟩

/-- A step that faults raises the fault and does nothing else, but that INPUT has taken its line (log 21). -/
theorem step_faulted_cases (h : step s = .next t) (ht : t.run = .faulted c k) :
    t = s.raiseFault c ∨ t = s.takeLine.raiseFault c := by
  obtain ⟨hrun, ⟨-, rfl⟩ | ⟨w, -, -, rfl⟩ | ⟨w, i, -, -, hexec⟩⟩ := step_cases h
  · cases ht
  · cases ht
    exact .inl rfl
  · obtain ⟨-, hdivision, -⟩ | ⟨-, hinput, -⟩ := exec_faulted_cases hrun hexec ht
    · exact .inl hdivision
    · exact .inr hinput

end

/-! ### The classes of a line that is not a number (R232 steps 3 to 5) -/

/-- A text with another character than digits, or that spells too large a number, is no decimal literal. -/
theorem parseDecimal_eq_none {max : Nat} {t : List Char} (h : t.all isDigitChar = false ∨ max < digitsValue 0 t) :
    parseDecimal max t = none := by
  refine if_neg fun ⟨_, hdigits, hmax⟩ => ?_
  obtain hother | hlarge := h
  · exact Bool.false_ne_true (hother.symm.trans hdigits)
  · exact Nat.not_le_of_gt hlarge hmax

theorem classifyText_singleton {c : Char} (hc : isDigitChar c = false) :
    classifyText [c] = if c.toNat ≤ 0xFF then .char (BitVec.ofNat 8 c.toNat) else .invalid := by
  have hparse : parseDecimal 255 [c] = none := parseDecimal_eq_none (.inl (by simp [hc]))
  simp only [classifyText, hparse]

theorem classifyText_of_long {t : List Char} (hlen : 2 ≤ t.length)
    (h : t.all isDigitChar = false ∨ 255 < digitsValue 0 t) : classifyText t = .invalid := by
  have hparse := parseDecimal_eq_none h
  match t, hlen with
  | _ :: _ :: _, _ => simp only [classifyText, hparse]

/-! ### The obligations of 60_exceptions.md -/

/-- Settles O9: past the program or at an illegal word the control unit itself ends the run; else the instruction decides. -/
theorem runningCoreStepsUnlessInputWaits : Obligations.RunningCoreStepsUnlessInputWaits := by
  intro s hrun
  obtain hnext | ⟨hwaits, hinput, hline⟩ := step_next_or_waits hrun
  · exact .inl hnext
  · exact .inr ⟨hwaits, hinput, lineEvent_none.mp hline⟩

/-- Settles O16: the conditions of `exec_faulted_cases`. -/
theorem onlyListedConditionsFault : Obligations.OnlyListedConditionsFault := by
  intro i s t c k hrun h ht
  obtain ⟨hc, -, hdivision⟩ | ⟨hc, -, hinput⟩ := exec_faulted_cases hrun h ht
  · exact .inl ⟨hc, hdivision⟩
  · exact .inr ⟨hc, hinput⟩

/-- Settles O17: raising a fault writes the run state alone, and taking a line the host's answers alone. -/
theorem faultsArePrecise : Obligations.FaultsArePrecise := by
  intro s t c k h ht
  obtain rfl | rfl := step_faulted_cases h ht
  · cases ht
    exact ⟨rfl, raiseFault_frame s c⟩
  · cases ht
    exact ⟨rfl, raiseFault_frame s.takeLine c⟩

/-- Settles O46: one lemma per class, and one per ending of the line. -/
theorem lineAdapterClassifies : Obligations.LineAdapterClassifies :=
  ⟨fun _ hne hdigits hmax => classifyText_of_digits hne hdigits hmax, fun _ hc => classifyText_singleton hc, rfl,
    fun _ hlen h => classifyText_of_long hlen h,
    fun _ h => congrArg classifyText (stripTerminator_of_getLast_ne h),
    fun _ h => congrArg classifyText (stripTerminator_append_lf h),
    fun t => congrArg classifyText (stripTerminator_append_crlf t), rfl⟩

/-- Settles O49: INPUT waits when the host has no line, and the host has none when it lists none and is silent. -/
theorem inputWaitsForASilentHost : Obligations.InputWaitsForASilentHost :=
  fun _ _ => exec_input_waits_iff.trans lineEvent_none

end Sys2Proof.Machine

/-! ## Loading a program and starting the core (R260, R261) -/

namespace Sys2Proof.Machine

section
variable {regs : Regs} {mem : Memory} {z : Bool} {image : List Word} {inputs : Inputs} {s : State}

/-- The loader takes an image of at most 65535 words and launches the core with all of it (R261). -/
theorem loadProgram_of_le (hlen : image.length ≤ 65535) :
    loadProgram regs mem z image inputs = .ok (State.launch regs mem z image inputs) :=
  if_pos hlen

/-- The loader refuses an image of more than 65535 words (D6, I19). -/
theorem loadProgram_of_lt (hlen : 65535 < image.length) :
    loadProgram regs mem z image inputs = .error .programTooLong :=
  if_neg (Nat.not_le_of_gt hlen)

/-- What a load that succeeds says: the image fits, and the state is the launch with it. -/
theorem loadProgram_ok (h : loadProgram regs mem z image inputs = .ok s) :
    image.length ≤ 65535 ∧ s = State.launch regs mem z image inputs := by
  obtain hlt | hle := Nat.lt_or_ge 65535 image.length
  · exact nomatch h.symm.trans (loadProgram_of_lt hlt)
  · exact ⟨hle, Except.ok.inj (h.symm.trans (loadProgram_of_le hle))⟩

end

/-! ### The obligations of 70_reset_and_hazards.md -/

/-- Settles O23: a loaded program has a legal length, and a launch with canonical memory has the invariant (`launch_inv`). -/
theorem loadedStateSatisfiesInvariant : Obligations.LoadedStateSatisfiesInvariant := by
  intro regs mem z image inputs s hmem h
  obtain ⟨hlen, rfl⟩ := loadProgram_ok h
  exact launch_inv hmem (decide_eq_true hlen)

/-- Settles O21: one lemma per side of the loader's bound; the fields are those of `State.launch`, with no display cell listed. -/
theorem loaderStartsAtIndexZero : Obligations.LoaderStartsAtIndexZero := by
  intro regs mem z image inputs
  constructor
  · intro hlen
    exact ⟨_, loadProgram_of_le hlen, rfl, rfl, rfl, rfl, rfl, rfl, rfl, fun _ _ _ _ => rfl⟩
  · exact loadProgram_of_lt

end Sys2Proof.Machine
